-- ==== Sys2Proof/Word.lean ====
section
/-! DEFINITION. The widths the spec gives its values (00_scope.md R12, 10_state.md, 30_encoding.md R300).
Bit 0 of each is its least significant bit (00_scope.md R13). -/

namespace Sys2Proof

/-- A packet byte, a command's A, B or OPC field, and the convolutional register CSR. -/
abbrev Byte := BitVec 8

/-- The CRC, a unit id, a front-end register value. -/
abbrev Half := BitVec 16

/-- The result register RES (10_state.md R120). -/
abbrev ResWord := BitVec 32

/-- A command word (30_encoding.md R300). -/
abbrev CmdWord := BitVec 64

end Sys2Proof
end

