-- ==== Sys2Proof/Config.lean ====
section
/-! DEFINITION. The constants the spec fixes (00_scope.md R10), the OPEN parameters a platform fixes
(00_scope.md R11), the types of what the collaborators answer (10_state.md R141 to R147), and the free
values: opaque constants without a body, so that no proof can see what they are. -/

namespace Sys2Proof

/-! ## Fixed constants (00_scope.md R10) -/

def PREAMBLE_LEN : Nat := 7
def PREAMBLE_BYTE : Byte := 0x00
def SYNC_LEN : Nat := 5
def FRAME_LEN : Nat := 7
def CODED_LEN : Nat := 2 * FRAME_LEN
def PACKET_LEN : Nat := PREAMBLE_LEN + SYNC_LEN + CODED_LEN
def PACKET_BITS : Nat := 8 * PACKET_LEN
def CRC_POLY : Half := 0x1021
def CRC_INIT : Half := 0x0000
def CRC_XOROUT : Half := 0x0000
def CRC_SPAN : Nat := 4
def STATUS_BYTE : Byte := 0x00
def CONSTRAINT_LEN : Nat := 7
def CSR_WIDTH : Nat := 8
def CONV_TAPS : List Nat := [6, 5, 2, 0]
def ILV_BITS : Nat := 8 * CODED_LEN
def ILV_STRIDE : Nat := 16
def ILV_FOLD : Nat := ILV_BITS - 1
def DIFF_INIT : Bool := false
def DUR : List Nat := [8, 8, 9]

/-! ## Open parameters (00_scope.md R11) -/

/-- The OPEN parameters, with R11's constraints as proof fields: an illegal configuration cannot be
written down, which is how the model refuses it (70_reset_and_hazards.md R912,
93_implementation_defined.md U8, U9, U10). The field defaults only show that the type has a member, as
an opaque constant without a body needs; `tickBits` and `symCap` default to R11's defaults.
No rule reads `tickHz` (D20). -/
structure Params where
  /-- SYNC_PATTERN[0..4] (D8). -/
  sync : Vector Byte 5
  /-- PTTID_OP (D10). -/
  pttidOp : Byte
  /-- PTTID_ARG (D10). -/
  pttidArg : Byte
  /-- LEAD_TICKS (D18). -/
  leadTicks : Nat := 1
  lead_pos : 1 ≤ leadTicks := by decide
  lead_le : leadTicks ≤ 7 := by decide
  /-- TICK_BITS (D19). -/
  tickBits : Nat := 32
  tickBits_ge : 16 ≤ tickBits := by decide
  /-- TICK_HZ (D20): a number that names the tick rate, as the opaque tones are named, because State is plain
  data and cannot hold a real; `Params.tickRate` is the rate itself. DESIGN CHOICE, safe: log entry 16. -/
  tickHz : Nat := 0
  /-- TONE_MARK (D15): an opaque tone value, here a number that names it. -/
  toneMark : Nat := 1
  /-- TONE_SPACE (D15). -/
  toneSpace : Nat := 0
  tones_distinct : toneMark ≠ toneSpace := by decide
  /-- FILTER_REG_INDEX (D24). -/
  filterRegIndex : Nat
  /-- FILTER_OFF_VALUE (D24). -/
  filterOffValue : Half
  /-- FILTER_SAFE_DEFAULT (D24). -/
  filterSafeDefault : Half
  /-- AMP_MODE (D25): an opaque mode flag, here a number that names it. -/
  ampMode : Nat
  /-- SYM_CAP (D11). -/
  symCap : Nat := 208
  symCap_ge : PACKET_BITS ≤ symCap := by decide
deriving DecidableEq, Repr, Inhabited

/-- A tick rate: a real above 0 (R11). The default only shows that the type has a member. -/
structure TickRate where
  hz : ℝ := 1
  pos : 0 < hz := by norm_num
deriving Inhabited

/-! ## What the collaborators answer -/

/-- The radio's operating mode (10_state.md R141): only ANALOG is told apart, the other values are
opaque and numbered. -/
inductive RadioMode where
  | analog
  | other (k : Nat)
deriving DecidableEq, Repr, Inhabited

/-- A squelch-tone setting (10_state.md R143): only NONE is told apart. -/
inductive CssValue where
  | none
  | other (k : Nat)
deriving DecidableEq, Repr, Inhabited

/-- One move of one agent: the tick counter's step (10_state.md R151), the sequencer's next step or,
between commands, the host's next act (R149), and the platform's reset (70_reset_and_hazards.md R900). -/
inductive Move where
  | tick
  | sequencer
  | reset
deriving DecidableEq, Repr, Inhabited

namespace Config

/-- The configuration the platform has fixed (70_reset_and_hazards.md R903). DESIGN CHOICE, safe:
log entry 1. -/
opaque params : Params

/-- The tick rate a name stands for: any real above 0 (00_scope.md R11). DESIGN CHOICE, safe: log entry 16. -/
opaque tickRateOf : Nat → TickRate

/-- TICK at power-on, before it is cut to TICK_BITS bits (10_state.md R151: an oracle draw).
DESIGN CHOICE, safe: log entry 2. -/
opaque tickAtReset : Nat

/-! Oracle draws (00_scope.md R19) where State scripts no answer, applied to a counter.
DESIGN CHOICE, safe: log entry 3. -/

opaque freeMode : Nat → RadioMode
opaque freeTxen : Nat → Bool
opaque freeCss : Nat → CssValue
opaque freeFeRead : Nat → Bool × Half
opaque freeFeWrite : Nat → Bool
opaque freeAmp : Nat → Bool

/-- The agent that moves next where State scripts none and asks for a free choice. DESIGN CHOICE,
safe: log entry 4. -/
opaque freeMove : Nat → Move

end Config

/-- The value of TICK_HZ (00_scope.md R11, D20). -/
def Params.tickRate (p : Params) : TickRate := Config.tickRateOf p.tickHz

end Sys2Proof
end

