-- ==== Sys2Proof/Syntax.lean ====
section
/-! DEFINITION. The abstract syntax of the 13 commands (30_encoding.md R310). -/

namespace Sys2Proof

/-- One constructor per row of the opcode table (30_encoding.md R303). A packet index is the whole A
field; `Instr.wellFormed` says that it is at most 25. -/
inductive Instr where
  /-- R450. -/
  | crcinit
  /-- R451: the data byte. -/
  | crcbyte (b : Byte)
  /-- R452. -/
  | crcread
  /-- R403. -/
  | leader
  /-- R454: MDC1200 op and arg bytes, unit id. -/
  | frame (op arg : Byte) (unit : Half)
  /-- R500. -/
  | fecenc
  /-- R550. -/
  | ilv
  /-- R600. -/
  | diff
  /-- R650: as `frame`, with the null-destination flag N. -/
  | encode (op arg : Byte) (unit : Half) (null : Bool)
  /-- R401: index and value. -/
  | pktwr (i v : Byte)
  /-- R402: index. -/
  | pktrd (i : Byte)
  /-- R700: length in bytes. -/
  | xmit (len : Byte)
  /-- R712: unit id. -/
  | postid (unit : Half)
deriving DecidableEq, Repr

end Sys2Proof
end

