-- ==== Sys2Proof/WellFormed.lean ====
section
/-! DEFINITION. Which terms of `Instr` stand for a legal command word: R310 types the packet index of
PKTWR and PKTRD as 0..25 (30_encoding.md R305 (d), R310). -/

namespace Sys2Proof

/-- The packet-index check of 30_encoding.md R305 (d): zext(A) ≤ 25. -/
def indexInRange (i : Byte) : Bool := decide (i.toNat ≤ 25)

/-- R310: every operand value is legal but for a packet index above 25. XMIT's length is not checked
here (R307). -/
def Instr.wellFormed : Instr → Bool
  | .crcinit => true
  | .crcbyte _ => true
  | .crcread => true
  | .leader => true
  | .frame _ _ _ => true
  | .fecenc => true
  | .ilv => true
  | .diff => true
  | .encode _ _ _ _ => true
  | .pktwr i _ => indexInRange i
  | .pktrd i => indexInRange i
  | .xmit _ => true
  | .postid _ => true

end Sys2Proof
end

