-- ==== Sys2Proof/Decode.lean ====
section
/-! DEFINITION. The decoder (30_encoding.md R305, R309), the encoder (R311) and the match/mask table
(R304). A command is one 64-bit word, so there is no length decoding (R308). -/

namespace Sys2Proof

/-! ## The fields of a command word (30_encoding.md R300) -/

def opcField (w : CmdWord) : Byte := w.extractLsb' 0 8
def aField (w : CmdWord) : Byte := w.extractLsb' 8 8
def bField (w : CmdWord) : Byte := w.extractLsb' 16 8
def uField (w : CmdWord) : Half := w.extractLsb' 24 16
def nField (w : CmdWord) : BitVec 1 := w.extractLsb' 40 1
def rsvField (w : CmdWord) : BitVec 23 := w.extractLsb' 41 23

/-- The reasons of 30_encoding.md R305 for which a word is illegal. -/
inductive IllegalWord where
  /-- (a): OPC is not in the opcode map. -/
  | reservedOpcode
  /-- (b): RSV ≠ 0. -/
  | reservedBits
  /-- (c): a field the format must hold zero is not zero. -/
  | unusedField
  /-- (d): PKTWR or PKTRD with zext(A) > 25. -/
  | indexTooLarge
deriving DecidableEq, Repr

/-- The operand formats of 30_encoding.md R302. -/
inductive Format where
  | z
  | a
  | ab
  | abu
  | abun
  | u
deriving DecidableEq, Repr

/-- The fields a format must hold zero are zero (R302). RSV is checked apart. -/
def Format.unusedClear (f : Format) (w : CmdWord) : Bool :=
  match f with
  | .z => nField w == 0 && uField w == 0 && bField w == 0 && aField w == 0
  | .a => nField w == 0 && uField w == 0 && bField w == 0
  | .ab => nField w == 0 && uField w == 0
  | .abu => nField w == 0
  | .abun => true
  | .u => nField w == 0 && bField w == 0 && aField w == 0

/-- R309's "fmt F -> C": C when the fields F does not use are zero, else ILLEGAL. -/
def fmt (f : Format) (w : CmdWord) (i : Instr) : Except IllegalWord Instr :=
  if f.unusedClear w then .ok i else .error .unusedField

/-- R309's index test of PKTWR and PKTRD, made after the format's own check. -/
def checkIndex (r : Except IllegalWord Instr) : Except IllegalWord Instr :=
  match r with
  | .ok i => if i.wellFormed then .ok i else .error .indexTooLarge
  | .error e => .error e

/-- The decoder of 30_encoding.md R309. -/
def decode (w : CmdWord) : Except IllegalWord Instr :=
  if rsvField w ≠ 0 then .error .reservedBits
  else
    match (opcField w).toNat with
    | 0x01 => fmt .z w .crcinit
    | 0x02 => fmt .a w (.crcbyte (aField w))
    | 0x03 => fmt .z w .crcread
    | 0x10 => fmt .z w .leader
    | 0x11 => fmt .abu w (.frame (aField w) (bField w) (uField w))
    | 0x12 => fmt .z w .fecenc
    | 0x13 => fmt .z w .ilv
    | 0x14 => fmt .z w .diff
    | 0x18 => fmt .abun w (.encode (aField w) (bField w) (uField w) (nField w == 1))
    | 0x20 => checkIndex (fmt .ab w (.pktwr (aField w) (bField w)))
    | 0x21 => checkIndex (fmt .a w (.pktrd (aField w)))
    | 0x30 => fmt .a w (.xmit (aField w))
    | 0x31 => fmt .u w (.postid (uField w))
    | _ => .error .reservedOpcode

/-! ## The encoder (30_encoding.md R303, R311) -/

/-- R311: zext_64(OPC) | zext_64(A) << 8 | zext_64(B) << 16 | zext_64(U) << 24 | zext_64(N) << 40. -/
def packWord (opc a b : Byte) (u : Half) (n : Bool) : CmdWord :=
  opc.setWidth 64 ||| (a.setWidth 64 <<< 8) ||| (b.setWidth 64 <<< 16) ||| (u.setWidth 64 <<< 24)
    ||| ((BitVec.ofBool n).setWidth 64 <<< 40)

/-- The word of a command, by the opcode map of R303. -/
def encode : Instr → CmdWord
  | .crcinit => packWord 0x01 0 0 0 false
  | .crcbyte b => packWord 0x02 b 0 0 false
  | .crcread => packWord 0x03 0 0 0 false
  | .leader => packWord 0x10 0 0 0 false
  | .frame op arg unit => packWord 0x11 op arg unit false
  | .fecenc => packWord 0x12 0 0 0 false
  | .ilv => packWord 0x13 0 0 0 false
  | .diff => packWord 0x14 0 0 0 false
  | .encode op arg unit null => packWord 0x18 op arg unit null
  | .pktwr i v => packWord 0x20 i v 0 false
  | .pktrd i => packWord 0x21 i 0 0 false
  | .xmit len => packWord 0x30 len 0 0 false
  | .postid unit => packWord 0x31 0 0 unit false

/-! ## Match and mask (30_encoding.md R304) -/

/-- One row of the table of R304. -/
structure TableRow where
  mnemonic : String
  matchBits : CmdWord
  mask : CmdWord
deriving DecidableEq, Repr

/-- The table of R304, row by row. -/
def opcodeTable : List TableRow :=
  [ ⟨"CRCINIT", 0x0000000000000001, 0xFFFFFFFFFFFFFFFF⟩,
    ⟨"CRCBYTE", 0x0000000000000002, 0xFFFFFFFFFFFF00FF⟩,
    ⟨"CRCREAD", 0x0000000000000003, 0xFFFFFFFFFFFFFFFF⟩,
    ⟨"LEADER", 0x0000000000000010, 0xFFFFFFFFFFFFFFFF⟩,
    ⟨"FRAME", 0x0000000000000011, 0xFFFFFF00000000FF⟩,
    ⟨"FECENC", 0x0000000000000012, 0xFFFFFFFFFFFFFFFF⟩,
    ⟨"ILV", 0x0000000000000013, 0xFFFFFFFFFFFFFFFF⟩ ] ++
  [ ⟨"DIFF", 0x0000000000000014, 0xFFFFFFFFFFFFFFFF⟩,
    ⟨"ENCODE", 0x0000000000000018, 0xFFFFFE00000000FF⟩,
    ⟨"PKTWR", 0x0000000000000020, 0xFFFFFFFFFF0000FF⟩,
    ⟨"PKTRD", 0x0000000000000021, 0xFFFFFFFFFFFF00FF⟩,
    ⟨"XMIT", 0x0000000000000030, 0xFFFFFFFFFFFF00FF⟩,
    ⟨"POSTID", 0x0000000000000031, 0xFFFFFF0000FFFFFF⟩ ]

/-- A command's mnemonic in the opcode table. -/
def Instr.mnemonic : Instr → String
  | .crcinit => "CRCINIT"
  | .crcbyte _ => "CRCBYTE"
  | .crcread => "CRCREAD"
  | .leader => "LEADER"
  | .frame _ _ _ => "FRAME"
  | .fecenc => "FECENC"
  | .ilv => "ILV"
  | .diff => "DIFF"
  | .encode _ _ _ _ => "ENCODE"
  | .pktwr _ _ => "PKTWR"
  | .pktrd _ => "PKTRD"
  | .xmit _ => "XMIT"
  | .postid _ => "POSTID"

/-- R304: the word w selects the command of row r. -/
def TableRow.selects (r : TableRow) (w : CmdWord) : Bool := w &&& r.mask == r.matchBits

/-- What the decoder reads from the word whose lowest `nbits` bits are w's and whose other bits are
zero. The command port takes the word whole, so no byte order enters (30_encoding.md R300, R308; log
entry 20). -/
def decodeTableWord (nbits w : Nat) : Option Instr :=
  match decode (BitVec.ofNat 64 (w % 2 ^ nbits)) with
  | .ok i => some i
  | .error _ => none

end Sys2Proof
end

