-- ==== Sys2Proof/Machine/State.lean ====
section
/-! DEFINITION. The machine's state as plain data: the block's registers (10_state.md R101 to R130,
reset values R161), the external tick counter and event trace (R150, R151), the configuration
(00_scope.md R11), and the model's own lists of what the outside does next (log entries 3, 4, 5). -/

namespace Sys2Proof.Machine

/-! ## Memory (10_state.md R110, 20_memory.md R200) -/

/-- PKT as the list of its written bytes, by rising index. An unlisted index holds no value, so
PKTW[i] = 1 exactly when i is listed (R110, R160; log entry 9). -/
abbrev Memory := List Host.Cell

/-- The canonical form: indices strictly rising and at most 25. -/
abbrev Memory.wf (m : Memory) : Prop :=
  m.Pairwise (fun c d => c.1 < d.1) ∧ ∀ c ∈ m, c.1 ≤ 25

/-! ## Sequencer state -/

/-- PHASE (10_state.md R115). -/
inductive Phase where
  | idle
  | precheck
  | armed
  | transmitting
  | restoring
deriving DecidableEq, Repr

/-- Which sequencer step of an XMIT or POSTID comes next (46_transmitter.md R711; log entry 6). -/
inductive Pos where
  /-- No command is executing. -/
  | idle
  /-- R703: FAIL. -/
  | fail
  /-- R701: TXEN.query. -/
  | txenQuery (len : Byte)
  /-- R702's checks of `len`, R704's bitstream, then A1's CSS.get. -/
  | cssGet (len : Byte)
  /-- A1: CSS.set(NONE). -/
  | cssOff
  /-- A2: FE.read. -/
  | filterRead
  /-- A2: FE.write of the off value, after the register writes of the read's answer. -/
  | filterOff (ok : Bool) (v : Half)
  /-- A3: TONE.set of the first symbol. -/
  | firstTone
  /-- A4: ROUTE.select(TONE). -/
  | routeTone
  /-- A5: AMP.query. -/
  | ampQuery
  /-- A5: AMP.enable. -/
  | ampEnable
  /-- A6: MUTE.drive(ASSERTED). -/
  | mute
  /-- R706: the read of TICK that sets the settle target. -/
  | settle
  /-- R706's wait for the settle target, then symbol 0. -/
  | firstSymbol
  /-- R707's wait for the write-ahead point, then the write-ahead step. -/
  | writeAhead
  /-- R707's wait for the boundary, then the next symbol, or, after the last, RS1: TONE.off. -/
  | boundary
  /-- RS2: ROUTE.select(MIC). -/
  | routeMic
  /-- RS3: CSS.set. -/
  | cssRestore
  /-- RS4: FE.write. -/
  | filterRestore
  /-- RS5: AMP.disable when the amplifier was off; otherwise RS6 at once. -/
  | ampRestore
  /-- RS6: MUTE.drive(DEASSERTED). -/
  | unmute
  /-- R710: completion. -/
  | finish
deriving DecidableEq, Repr

/-- The sticky bits of FAULT (10_state.md R130). -/
structure FaultBits where
  illegal : Bool
  uninit : Bool
  late : Bool
deriving DecidableEq, Repr

/-- The three fault kinds (60_exceptions.md R810). -/
inductive FaultKind where
  | illegal
  | uninit
  | late
deriving DecidableEq, Repr

/-! ## The event trace (10_state.md R150) -/

/-- The audio source of ROUTE.select (10_state.md R146). -/
inductive Route where
  | tone
  | mic
deriving DecidableEq, Repr

/-- The level of MUTE.drive (10_state.md R148): ASSERTED means muted. -/
inductive MuteLevel where
  | asserted
  | deasserted
deriving DecidableEq, Repr

/-- What an event of the trace records: a port call with its arguments and its answer (10_state.md R141
to R148), a command word taken by the command port, or a command's completion with RES (R150; log
entry 8). -/
inductive Act where
  | accepted (w : CmdWord)
  | completed (res : Option ResWord)
  | modeQuery (m : RadioMode)
  | txenQuery (e : Bool)
  | cssGet (c : CssValue)
  | cssSet (c : CssValue)
  | feRead (idx : Nat) (ok : Bool) (v : Half)
  | feWrite (idx : Nat) (v : Half) (ok : Bool)
  | toneSet (t : Nat)
  | toneOff
  | routeSelect (r : Route)
  | ampQuery (mode : Nat) (on : Bool)
  | ampEnable (mode : Nat)
  | ampDisable (mode : Nat)
  | muteDrive (l : MuteLevel)
deriving DecidableEq, Repr

/-- An act and the TICK value of its step (10_state.md R150, 46_transmitter.md R711). -/
structure Event where
  tick : Nat
  act : Act
deriving DecidableEq, Repr

/-! ## The outside (the model's own fields) -/

/-- An act of the host between commands: issuing a command word, or reading RES (10_state.md R149,
70_reset_and_hazards.md R904). -/
inductive HostAct where
  | issue (w : CmdWord)
  | readRes
deriving DecidableEq, Repr

/-- Who moves when `Env.moves` is used up: `eager`, the schedule of 95_test_vectors.md Level 3 (the
sequencer whenever it has a step, the tick counter otherwise), or `free`, a free value. -/
inductive Fallback where
  | eager
  | free
deriving DecidableEq, Repr

/-- What the outside does next: host acts, the schedule and the collaborators' answers. DESIGN CHOICE,
safe (every value is quantified over): log entries 3, 4, 5. -/
structure Env where
  /-- The host's acts to come, in issue order (20_memory.md R213). -/
  host : List HostAct
  /-- The agents that move next. -/
  moves : List Move
  fallback : Fallback
  /-- Answers to MODE.query. -/
  modeAns : List RadioMode
  /-- Answers to TXEN.query. -/
  txenAns : List Bool
  /-- Answers to CSS.get. -/
  cssAns : List CssValue
  /-- Answers to FE.read: status and value. -/
  feReadAns : List (Bool × Half)
  /-- Statuses of FE.write. -/
  feWriteAns : List Bool
  /-- Answers to AMP.query. -/
  ampAns : List Bool
  /-- How many free values have been drawn. -/
  draws : Nat
deriving DecidableEq, Repr

/-! ## How a step can stop -/

/-- Reasons for which the machine stops with a fault: none. The spec's faults are sticky bits of FAULT
and the block goes on (60_exceptions.md R811 to R814; log entry 18). -/
inductive Fault
deriving DecidableEq, Repr

/-- Reasons for which a step is refused. -/
inductive Refusal where
  /-- An instruction without a meaning yet, raised by `exec` alone. Safe. No arm raises it. -/
  | notModelled (mnemonic : String)
deriving DecidableEq, Repr

/-! ## The state -/

/-- The machine. A register the spec says may hold "no value" (10_state.md R160) is an Option; SYM is
the list of its written entries, which are always a prefix (log entry 9). -/
structure State where
  /-- The OPEN parameters; no step changes them (log entry 1). -/
  cfg : Params
  /-- CRC (R101). -/
  crc : Half
  /-- CSR (R102). -/
  csr : Byte
  /-- DPREV (R103). -/
  dprev : Bool
  /-- PKT and PKTW (R110). -/
  pkt : Memory
  /-- PHASE (R115). -/
  phase : Phase
  /-- SAV_CSS (R116). -/
  savCss : Option CssValue
  /-- SAV_FILT (R116). -/
  savFilt : Option Half
  /-- SAV_FILT_OK (R116). -/
  savFiltOk : Option Bool
  /-- SAV_AMP_ON (R116). -/
  savAmpOn : Option Bool
  /-- SYM (R117). -/
  sym : List Bool
  /-- NSYM (R117). -/
  nsym : Nat
  /-- SIDX (R118). -/
  sidx : Nat
  /-- PIDX (R118). -/
  pidx : Fin 3
  /-- CUR (R118). -/
  cur : Option Bool
  /-- TB (R125). -/
  tb : Option Nat
  /-- TICK has run 2^(TICK_BITS-1) ticks past the target of a wait since the last write-ahead check
  (70_reset_and_hazards.md R915, 93_implementation_defined.md U20; log entry 23). -/
  stalled : Bool
  /-- RES (R120). -/
  res : Option ResWord
  /-- FAULT (R130). -/
  fault : FaultBits
  /-- Which sequencer step comes next (R105; log entry 6). -/
  pos : Pos
  /-- TICK (R151): a number below 2^TICK_BITS, outside the block. -/
  tick : Nat
  /-- The event trace (R150), newest event first. -/
  trace : List Event
  /-- What the outside does next. -/
  env : Env
deriving DecidableEq, Repr

/-- An outside that has nothing planned (log entries 3, 4, 5). -/
def Env.quiet : Env :=
  { host := [], moves := [], fallback := .eager, modeAns := [], txenAns := [], cssAns := [],
    feReadAns := [], feWriteAns := [], ampAns := [], draws := 0 }

/-- The machine right after reset: the block's registers as in 10_state.md R161 (70_reset_and_hazards.md
R900); TICK and the configuration are free values (log entries 1, 2). -/
def State.reset : State :=
  { cfg := Config.params
    crc := 0x0000
    csr := 0x00
    dprev := false
    pkt := []
    phase := .idle
    savCss := none
    savFilt := none
    savFiltOk := none
    savAmpOn := none
    sym := []
    nsym := 0
    sidx := 0
    pidx := 0
    cur := none
    tb := none
    stalled := false
    res := none
    fault := { illegal := false, uninit := false, late := false }
    pos := .idle
    tick := Config.tickAtReset % 2 ^ Config.params.tickBits
    trace := []
    env := Env.quiet }

end Sys2Proof.Machine
end

