-- ==== Sys2Proof/Machine/Operands.lean ====
section
/-! DEFINITION. Operand assembly (30_encoding.md R301), the byte order of the unit id and the CRC
(20_memory.md R209), and the bit orders of the stages (20_memory.md R210). -/

namespace Sys2Proof.Machine

/-- A packet index or a length: zext(A) (30_encoding.md R301). -/
def zextA (a : Byte) : Nat := a.toNat

/-- The high byte of a 16-bit value. -/
def hiByte (v : Half) : Byte := v.extractLsb' 8 8

/-- The low byte of a 16-bit value. -/
def loByte (v : Half) : Byte := v.extractLsb' 0 8

/-- zext_32 of a byte, as PKTRD writes it to RES. -/
def resOfByte (b : Byte) : ResWord := b.setWidth 32

/-- zext_32 of the CRC, as CRCREAD writes it to RES. -/
def resOfHalf (v : Half) : ResWord := v.setWidth 32

/-- zext_8 of one bit. -/
def bitByte (x : Bool) : Byte := (BitVec.ofBool x).setWidth 8

/-- A byte's bits MSB-first: b[7], ..., b[0] (00_scope.md R13). -/
def bitsMsb (b : Byte) : List Bool := [7, 6, 5, 4, 3, 2, 1, 0].map b.getLsbD

/-- A byte's bits LSB-first: b[0], ..., b[7] (00_scope.md R13). -/
def bitsLsb (b : Byte) : List Bool := [0, 1, 2, 3, 4, 5, 6, 7].map b.getLsbD

/-- The byte whose bits MSB-first are the given eight. -/
def ofBitsMsb (xs : List Bool) : Byte := xs.foldl (fun v x => (v <<< 1) ||| bitByte x) 0

/-- The byte whose bits LSB-first are the given eight. -/
def ofBitsLsb (xs : List Bool) : Byte := xs.foldr (fun x v => (v <<< 1) ||| bitByte x) 0

/-- The bits of a byte sequence, MSB-first per byte: position 8 m + j is byte m's bit 7 - j
(43_interleave.md R552, 46_transmitter.md R704). -/
def bitstream (bs : List Byte) : List Bool := bs.flatMap bitsMsb

/-- SYNC_PATTERN[0..4] as a list. Irreducible so that proofs cite `syncBytes_eq` and `syncBytes_length`
instead of evaluating it. -/
@[irreducible] def syncBytes (p : Params) : List Byte := [p.sync[0], p.sync[1], p.sync[2], p.sync[3], p.sync[4]]

/-- The preamble: PREAMBLE_LEN bytes of PREAMBLE_BYTE (40_packet_buffer.md R400). -/
def preambleBytes : List Byte := List.replicate PREAMBLE_LEN PREAMBLE_BYTE

/-- tone(b) (10_state.md R145): mark for 1, space for 0. -/
def toneOf (p : Params) (b : Bool) : Nat := if b then p.toneMark else p.toneSpace

/-- DUR[PIDX] (46_transmitter.md R708). -/
def durTicks (i : Fin 3) : Nat := DUR.getD i.val 0

end Sys2Proof.Machine
end

