-- ==== Sys2Proof/Machine/Flags.lean ====
section
/-! DEFINITION. The block has no condition codes (10_state.md R106); its only flags are the sticky bits
of FAULT (R130, 60_exceptions.md R810, R814). -/

namespace Sys2Proof.Machine

/-- The cause code of a fault kind (60_exceptions.md R810). -/
def faultCode : FaultKind → Nat
  | .illegal => 1
  | .uninit => 2
  | .late => 3

/-- FAULT with the bit of kind k set; the others stay as they are (60_exceptions.md R814). -/
def setFaultBit (k : FaultKind) (f : FaultBits) : FaultBits :=
  match k with
  | .illegal => { f with illegal := true }
  | .uninit => { f with uninit := true }
  | .late => { f with late := true }

/-- The bit of kind k. -/
def faultBit (k : FaultKind) (f : FaultBits) : Bool :=
  match k with
  | .illegal => f.illegal
  | .uninit => f.uninit
  | .late => f.late

end Sys2Proof.Machine
end

