-- ==== Sys2Proof/Machine/Ops.lean ====
section
/-! DEFINITION. The shared operations: packet-buffer reads and writes (20_memory.md R202), tick
arithmetic and reached (00_scope.md R18), the trace (10_state.md R150), oracle draws (00_scope.md R19),
and how a command ends: by completing, or by raising a fault (00_scope.md R20). -/

namespace Sys2Proof.Machine

/-- The outcomes of a step of this machine. -/
abbrev Out := Host.Outcome State Fault Refusal

/-! ## The packet buffer -/

/-- The value PKT holds at an index, if it holds one. -/
def cellRead (m : Memory) (i : Nat) : Option Byte :=
  match m with
  | [] => none
  | c :: cs => if c.1 = i then some c.2 else cellRead cs i

/-- PKT with index i set to v; keeps the indices rising. -/
def cellWrite (m : Memory) (i : Nat) (v : Byte) : Memory :=
  match m with
  | [] => [(i, v)]
  | c :: cs =>
    if i < c.1 then (i, v) :: c :: cs
    else if i = c.1 then (i, v) :: cs
    else c :: cellWrite cs i v

/-- PKTW[i] (10_state.md R110). -/
def pktw (m : Memory) (i : Nat) : Bool := (cellRead m i).isSome

/-- MemRead(i, 1) (20_memory.md R202). -/
def memRead (i : Nat) (m : Memory) : Except FaultKind Byte :=
  if 25 < i then .error .illegal
  else
    match cellRead m i with
    | none => .error .uninit
    | some v => .ok v

/-- MemWrite(i, 1, v) (20_memory.md R202). -/
def memWrite (i : Nat) (v : Byte) (m : Memory) : Except FaultKind Memory :=
  if 25 < i then .error .illegal else .ok (cellWrite m i v)

/-- The n bytes from index i on, if all of them hold a value: the reads of a stage, made before any of
its writes (60_exceptions.md R812). Its callers give indices up to 25. -/
def readBytes (m : Memory) (i : Nat) : Nat → Option (List Byte)
  | 0 => some []
  | n + 1 =>
    match cellRead m i, readBytes m (i + 1) n with
    | some b, some bs => some (b :: bs)
    | _, _ => none

/-- PKT with the given bytes written from index i on. Its callers give indices up to 25. -/
def writeBytes (m : Memory) (i : Nat) : List Byte → Memory
  | [] => m
  | b :: bs => writeBytes (cellWrite m i b) (i + 1) bs

/-! ## Ticks (00_scope.md R12, R18) -/

/-- The number of tick values, 2^TICK_BITS. -/
def tickSpan (p : Params) : Nat := 2 ^ p.tickBits

/-- (a + d) mod 2^TICK_BITS. -/
def tickAdd (p : Params) (a d : Nat) : Nat := (a + d) % tickSpan p

/-- (a - d) mod 2^TICK_BITS. -/
def tickSub (p : Params) (a d : Nat) : Nat := (a + (tickSpan p - d % tickSpan p)) % tickSpan p

/-- reached(T): the TICK_BITS-bit difference TICK - T, read as signed, is not negative, so its top bit
is 0 (00_scope.md R18). -/
def reached (p : Params) (tick target : Nat) : Bool :=
  decide (tickSub p tick target < 2 ^ (p.tickBits - 1))

/-- The places where the sequencer is held in a wait_until (46_transmitter.md R706, R707). -/
def Pos.waits (p : Pos) : Bool := p = .firstSymbol || p = .writeAhead || p = .boundary

/-- The tick that the wait at a place is for: TB, or LEAD_TICKS before it at the write-ahead point
(46_transmitter.md R706, R707). -/
def waitPoint (p : Params) (pos : Pos) (tb : Nat) : Nat :=
  if pos = .writeAhead then tickSub p tb p.leadTicks else tb

/-- The sequencer waits for a target that is reached now and reads as in the future at the tick `now`
(46_transmitter.md R717, 70_reset_and_hazards.md R915). -/
def waitLapses (now : Nat) (s : State) : Bool :=
  s.pos.waits &&
    match s.tb with
    | some tb =>
      reached s.cfg s.tick (waitPoint s.cfg s.pos tb) && !reached s.cfg now (waitPoint s.cfg s.pos tb)
    | none => false

/-- One step of the tick counter (10_state.md R151). Beside TICK it writes only the model's own record of
a stall (log entry 23). -/
def tickStep (s : State) : State :=
  let now := tickAdd s.cfg s.tick 1
  { s with tick := now, stalled := s.stalled || waitLapses now s }

/-! ## The trace -/

/-- Record an act with the TICK value of its step (10_state.md R150). -/
def logAct (a : Act) (s : State) : State := { s with trace := ⟨s.tick, a⟩ :: s.trace }

/-! ## Oracle draws (00_scope.md R19; log entry 3) -/

/-- The next answer of a query: the head of its script, or a free value when the script is used up. -/
def draw {α : Type} (script : List α) (free : Nat → α) (setScript : List α → Env → Env) (e : Env) :
    α × Env :=
  match script with
  | a :: rest => (a, setScript rest e)
  | [] => (free e.draws, { e with draws := e.draws + 1 })

def drawMode (e : Env) : RadioMode × Env :=
  draw e.modeAns Config.freeMode (fun r e => { e with modeAns := r }) e

def drawTxen (e : Env) : Bool × Env :=
  draw e.txenAns Config.freeTxen (fun r e => { e with txenAns := r }) e

def drawCss (e : Env) : CssValue × Env :=
  draw e.cssAns Config.freeCss (fun r e => { e with cssAns := r }) e

def drawFeRead (e : Env) : (Bool × Half) × Env :=
  draw e.feReadAns Config.freeFeRead (fun r e => { e with feReadAns := r }) e

def drawFeWrite (e : Env) : Bool × Env :=
  draw e.feWriteAns Config.freeFeWrite (fun r e => { e with feWriteAns := r }) e

def drawAmp (e : Env) : Bool × Env :=
  draw e.ampAns Config.freeAmp (fun r e => { e with ampAns := r }) e

/-! ## How a command ends -/

/-- raise Fault(k): set the sticky bit and change nothing else. The command ends (00_scope.md R20,
60_exceptions.md R811, R812). The block has no trap entry (R822): this stands in its place. -/
def raiseFault (k : FaultKind) (s : State) : State := { s with fault := setFaultBit k s.fault }

/-- A command that is one sequencer step completes: the trace records it with RES (10_state.md R150). -/
def complete (s : State) : Out := .next (logAct (.completed s.res) s)

/-- A command completes with a result. -/
def completeWith (r : ResWord) (s : State) : Out := complete { s with res := some r }

/-- A command that is one sequencer step ends by a fault. -/
def failWith (k : FaultKind) (s : State) : Out := .next (raiseFault k s)

/-- A stage command: it completes if its reads found values, and raises UNINIT, having written
nothing, if not (60_exceptions.md R812). -/
def completeStage (r : Option State) (s : State) : Out :=
  match r with
  | some t => complete t
  | none => failWith .uninit s

/-- XMIT and POSTID end: PHASE <- IDLE, RES, completion (46_transmitter.md R703, R710). -/
def completeXmit (r : ResWord) (s : State) : Out :=
  completeWith r { s with phase := .idle, pos := .idle }

/-- XMIT raises UNINIT: PHASE <- IDLE, RES unchanged (46_transmitter.md R702). -/
def abortXmit (s : State) : Out := failWith .uninit { s with phase := .idle, pos := .idle }

/-- A transmitter step that reads a register or SYM entry: one with no value raises UNINIT
(10_state.md R160). No run reaches that case (R116; log entry 10). -/
def needValue {α : Type} (o : Option α) (s : State) (k : α → Out) : Out :=
  match o with
  | some a => k a
  | none => abortXmit s

/-- Reset (70_reset_and_hazards.md R900, R901): every block register takes its value of 10_state.md
R161; no port call; TICK, the trace, the configuration and the outside stay as they are. -/
def resetBlock (s : State) : State :=
  { State.reset with cfg := s.cfg, tick := s.tick, trace := s.trace, env := s.env }

end Sys2Proof.Machine
end

