-- ==== Sys2Proof/Machine/Convolutional.lean ====
section
/-! DEFINITION. FECENC, the rate-1/2 convolutional encoder (42_convolutional.md). -/

namespace Sys2Proof.Machine

/-- CSR after one input bit: a left shift with the new bit at bit 0 (42_convolutional.md R499). -/
def csrShift (csr : Byte) (x : Bool) : Byte := (csr <<< 1) ||| bitByte x

/-- The parity bit: the XOR of CSR's tapped bits (42_convolutional.md R499, R503). -/
def csrParity (csr : Byte) : Bool := (CONV_TAPS.map csr.getLsbD).foldl Bool.xor false

/-- Feed bits into CSR: its value after the last, and one parity bit for each. -/
def fecBits (csr : Byte) : List Bool → Byte × List Bool
  | [] => (csr, [])
  | x :: xs =>
    let csr' := csrShift csr x
    let r := fecBits csr' xs
    (r.1, csrParity csr' :: r.2)

/-- One byte, LSB first; parity bit j lands at bit j (42_convolutional.md R500). -/
def fecByte (csr d : Byte) : Byte × Byte :=
  let r := fecBits csr (bitsLsb d)
  (r.1, ofBitsLsb r.2)

/-- A byte sequence; CSR is carried from byte to byte (42_convolutional.md R500). -/
def fecBytes (csr : Byte) : List Byte → Byte × List Byte
  | [] => (csr, [])
  | d :: ds =>
    let r := fecByte csr d
    let rs := fecBytes r.1 ds
    (rs.1, r.2 :: rs.2)

/-- FECENC's effect (42_convolutional.md R500, R501): PKT[19..25] and CSR, which starts at 0x00. None
when a byte of PKT[12..18] holds no value. -/
def fecStage (s : State) : Option State :=
  match readBytes s.pkt 12 FRAME_LEN with
  | some ds =>
    let r := fecBytes 0x00 ds
    some { s with pkt := writeBytes s.pkt 19 r.2, csr := r.1 }
  | none => none

/-- R500. -/
def execFecenc (s : State) : Out := completeStage (fecStage s) s

end Sys2Proof.Machine
end

