-- ==== Sys2Proof/Machine/Crc.lean ====
section
/-! DEFINITION. CRCINIT, CRCBYTE, CRCREAD and FRAME (41_crc_frame.md). -/

namespace Sys2Proof.Machine

/-- One shift of the byte-wise CRC step (41_crc_frame.md R449). -/
def crcShift (c : Half) : Half := if c.getLsbD 15 then (c <<< 1) ^^^ CRC_POLY else c <<< 1

/-- crc_step(c, b), the byte-wise form (41_crc_frame.md R449). -/
def crcStep (c : Half) (b : Byte) : Half :=
  crcShift (crcShift (crcShift (crcShift (crcShift (crcShift (crcShift (crcShift
    (c ^^^ (b.setWidth 16 <<< 8)))))))))

/-- The CRC register after the bytes, from CRC_INIT, with the final XOR (41_crc_frame.md R449). -/
def crc16 (bs : List Byte) : Half := bs.foldl crcStep CRC_INIT ^^^ CRC_XOROUT

/-- R450. -/
def execCrcinit (s : State) : Out := complete { s with crc := CRC_INIT }

/-- R451. -/
def execCrcbyte (b : Byte) (s : State) : Out := complete { s with crc := crcStep s.crc b }

/-- R452: CRC_XOROUT is zero, so no final XOR. -/
def execCrcread (s : State) : Out := completeWith (resOfHalf s.crc) s

/-- The four frame bytes the CRC covers (41_crc_frame.md R453). -/
def frameHead (op arg : Byte) (unit : Half) : List Byte := [op, arg, hiByte unit, loByte unit]

/-- The raw frame (41_crc_frame.md R454, R455). -/
def frameBytes (op arg : Byte) (unit : Half) : List Byte :=
  let c := crc16 (frameHead op arg unit)
  frameHead op arg unit ++ [loByte c, hiByte c, STATUS_BYTE]

/-- FRAME's effect (41_crc_frame.md R454): PKT[12..18] and CRC. -/
def frameStage (op arg : Byte) (unit : Half) (s : State) : State :=
  { s with
    pkt := writeBytes s.pkt 12 (frameBytes op arg unit)
    crc := crc16 (frameHead op arg unit) }

/-- R454. -/
def execFrame (op arg : Byte) (unit : Half) (s : State) : Out :=
  complete (frameStage op arg unit s)

end Sys2Proof.Machine
end

