-- ==== Sys2Proof/Machine/Diff.lean ====
section
/-! DEFINITION. DIFF, the differential line coder (44_diffcode.md). -/

namespace Sys2Proof.Machine

/-- XOR each bit with the previous input bit: the last input bit, and the output bits
(44_diffcode.md R600). -/
def diffBits (prev : Bool) : List Bool → Bool × List Bool
  | [] => (prev, [])
  | x :: xs =>
    let r := diffBits x xs
    (r.1, Bool.xor x prev :: r.2)

/-- One byte, MSB first, then the complement of the whole byte (44_diffcode.md R600). -/
def diffByte (prev : Bool) (c : Byte) : Bool × Byte :=
  let r := diffBits prev (bitsMsb c)
  (r.1, ~~~ofBitsMsb r.2)

/-- A byte sequence; the carried bit is not reset between bytes (44_diffcode.md R601). -/
def diffBytes (prev : Bool) : List Byte → Bool × List Byte
  | [] => (prev, [])
  | c :: cs =>
    let r := diffByte prev c
    let rs := diffBytes r.1 cs
    (rs.1, r.2 :: rs.2)

/-- DIFF's effect (44_diffcode.md R600, R601): PKT[0..25] and DPREV, which starts at DIFF_INIT. None
when one of the bytes holds no value. -/
def diffStage (s : State) : Option State :=
  match readBytes s.pkt 0 PACKET_LEN with
  | some cs =>
    let r := diffBytes DIFF_INIT cs
    some { s with pkt := writeBytes s.pkt 0 r.2, dprev := r.1 }
  | none => none

/-- R600. -/
def execDiff (s : State) : Out := completeStage (diffStage s) s

end Sys2Proof.Machine
end

