-- ==== Sys2Proof/Machine/Interleave.lean ====
section
/-! DEFINITION. ILV, the 112-bit interleaver (43_interleave.md). IBITS and IK live inside the one step
(10_state.md R104). -/

namespace Sys2Proof.Machine

/-- The next running index: + 16, folded by - 111 at 112 and above (43_interleave.md R550). -/
def ilvNext (k : Nat) : Nat :=
  if k + ILV_STRIDE ≥ ILV_BITS then k + ILV_STRIDE - ILV_FOLD else k + ILV_STRIDE

/-- Write the input bits, in order, at the running index (43_interleave.md R550). -/
def ilvScatter (k : Nat) (ibits : List Bool) : List Bool → List Bool
  | [] => ibits
  | x :: xs => ilvScatter (ilvNext k) (ibits.set k x) xs

/-- Repack bits MSB-first into n bytes (43_interleave.md R550). -/
def packMsb (xs : List Bool) : Nat → List Byte
  | 0 => []
  | n + 1 => ofBitsMsb (xs.take 8) :: packMsb (xs.drop 8) n

/-- The interleaved bytes of a 14-byte payload. -/
def ilvBytes (cs : List Byte) : List Byte :=
  packMsb (ilvScatter 0 (List.replicate ILV_BITS false) (bitstream cs)) CODED_LEN

/-- ILV's effect (43_interleave.md R550): PKT[12..25]. None when one of them holds no value. -/
def ilvStage (s : State) : Option State :=
  match readBytes s.pkt 12 CODED_LEN with
  | some cs => some { s with pkt := writeBytes s.pkt 12 (ilvBytes cs) }
  | none => none

/-- R550. -/
def execIlv (s : State) : Out := completeStage (ilvStage s) s

end Sys2Proof.Machine
end

