-- ==== Sys2Proof/Machine/PacketBuffer.lean ====
section
/-! DEFINITION. PKTWR, PKTRD and LEADER (40_packet_buffer.md). -/

namespace Sys2Proof.Machine

/-- R401. The decoder lets no index above 25 through; a term with one raises ILLEGAL here too, as
MemWrite does (20_memory.md R202). -/
def execPktwr (i v : Byte) (s : State) : Out :=
  match memWrite (zextA i) v s.pkt with
  | .ok m => complete { s with pkt := m }
  | .error k => failWith k s

/-- R402. -/
def execPktrd (i : Byte) (s : State) : Out :=
  match memRead (zextA i) s.pkt with
  | .ok v => completeWith (resOfByte v) s
  | .error k => failWith k s

/-- LEADER's effect (40_packet_buffer.md R403): PKT[0..11]. -/
def leaderStage (s : State) : State :=
  { s with pkt := writeBytes (writeBytes s.pkt 0 preambleBytes) 7 (syncBytes s.cfg) }

/-- R403. -/
def execLeader (s : State) : Out := complete (leaderStage s)

end Sys2Proof.Machine
end

