-- ==== Sys2Proof/Machine/Encode.lean ====
section
/-! DEFINITION. ENCODE, the packet encoder (45_encode.md). -/

namespace Sys2Proof.Machine

/-- LEADER, FRAME, FECENC, ILV and DIFF in that order (45_encode.md R650). Never none: each stage reads
only bytes an earlier one wrote. -/
def encodeStages (op arg : Byte) (unit : Half) (s : State) : Option State :=
  match fecStage (frameStage op arg unit (leaderStage s)) with
  | none => none
  | some t =>
    match ilvStage t with
    | none => none
    | some u => diffStage u

/-- The result of a successful ENCODE: the byte count (45_encode.md R652). -/
def encodeResult : ResWord := BitVec.ofNat 32 PACKET_LEN

/-- R650, R651. -/
def execEncode (op arg : Byte) (unit : Half) (null : Bool) (s : State) : Out :=
  if null then completeWith 0 s
  else
    match encodeStages op arg unit s with
    | some t => completeWith encodeResult t
    | none => failWith .uninit s

end Sys2Proof.Machine
end

