-- ==== Sys2Proof/Machine/Transmitter.lean ====
section
/-! DEFINITION. XMIT and POSTID, the symbol transmitter (46_transmitter.md). The first sequencer step is
the command's meaning; `xmitStep` gives every later one (R711). A step carries the register writes that
stand before it since the last step or wait (R711; log entry 6); a wait_until is a place of its own, whose
passing poll is a silent move (log entry 7). -/

namespace Sys2Proof.Machine

/-! ## PRECHECK (46_transmitter.md R701 to R703) -/

/-- PHASE <- PRECHECK and MODE.query (R701): XMIT's first step. -/
def startXmit (len : Byte) (s : State) : Out :=
  let d := drawMode s.env
  let next : Pos := if d.1 = .analog then .txenQuery len else .fail
  .next (logAct (.modeQuery d.1) { s with phase := .precheck, pos := next, env := d.2 })

/-- TXEN.query (R701). -/
def txenStep (len : Byte) (s : State) : Out :=
  let d := drawTxen s.env
  let next : Pos := if d.1 then .cssGet len else .fail
  .next (logAct (.txenQuery d.1) { s with pos := next, env := d.2 })

/-- SYM with its first entries rewritten (R704). -/
def writeSym (new old : List Bool) : List Bool := new ++ old.drop new.length

/-- PHASE <- ARMED and A1's CSS.get (R705). -/
def cssGetStep (s : State) : Out :=
  let d := drawCss s.env
  .next (logAct (.cssGet d.1) { s with phase := .armed, savCss := some d.1, pos := .cssOff, env := d.2 })

/-- The packet checks (R702), the bitstream (R704), then the first arming call. A failed check is FAIL
(R703); an unwritten byte raises UNINIT. DESIGN CHOICE, unsafe: log entry 25. That UNINIT end is a sequencer
step of its own, so ticks can come between TXEN.query and it; R711 and 60_exceptions.md R812 name no step for
it. -/
def packetStep (len : Byte) (s : State) : Out :=
  let n := zextA len
  if n = 0 then completeXmit 0 s
  else if n > PACKET_LEN ∨ 8 * n > s.cfg.symCap then completeXmit 0 s
  else
    match readBytes s.pkt 0 n with
    | none => abortXmit s
    | some bs => cssGetStep { s with sym := writeSym (bitstream bs) s.sym, nsym := 8 * n }

/-! ## ARMED (46_transmitter.md R705, R706) -/

/-- A port call with no answer: log it and go on. -/
def callStep (a : Act) (next : Pos) (s : State) : Out := .next (logAct a { s with pos := next })

/-- FE.write(FILTER_REG_INDEX, v), its status ignored (10_state.md R144). -/
def feWriteStep (v : Half) (next : Pos) (s : State) : Out :=
  let d := drawFeWrite s.env
  .next (logAct (.feWrite s.cfg.filterRegIndex v d.1) { s with pos := next, env := d.2 })

/-- A2's FE.read. -/
def feReadStep (s : State) : Out :=
  let d := drawFeRead s.env
  .next (logAct (.feRead s.cfg.filterRegIndex d.1.1 d.1.2)
    { s with pos := .filterOff d.1.1 d.1.2, env := d.2 })

/-- SAV_FILT_OK <- ok, and SAV_FILT <- v when ok = 1 (R705). -/
def saveFilter (ok : Bool) (v : Half) (s : State) : State :=
  { s with savFiltOk := some ok, savFilt := if ok then some v else s.savFilt }

/-- CUR <- SYM[0] and A3's TONE.set (R705). -/
def firstToneStep (s : State) : Out :=
  needValue s.sym[0]? s fun b =>
    callStep (.toneSet (toneOf s.cfg b)) .routeTone { s with cur := some b }

/-- A5's AMP.query (R705). -/
def ampQueryStep (s : State) : Out :=
  let d := drawAmp s.env
  .next (logAct (.ampQuery s.cfg.ampMode d.1)
    { s with savAmpOn := some d.1, pos := .ampEnable, env := d.2 })

/-- The read of TICK that sets the settle target (R706). No wait has been stalled yet. -/
def settleStep (s : State) : Out :=
  .next { s with
    tb := some (tickAdd s.cfg s.tick s.cfg.leadTicks), pos := .firstSymbol, stalled := false }

/-! ## TRANSMITTING (46_transmitter.md R707, R708, R715) -/

/-- FAULT.LATE <- 1 when the boundary is already reached (R715), or when a stall has made a wait on the way
here misread its target (70_reset_and_hazards.md R915; log entry 23). -/
def markLate (target : Nat) (s : State) : State :=
  if s.stalled || reached s.cfg s.tick target then raiseFault .late s else s

/-- One poll of the wait the sequencer is held in: none while its target is not reached, else what comes
after, given TB (00_scope.md R18, 46_transmitter.md R717). A wait that a poll has passed is not tested again:
the place moves on (log entry 7). -/
def pollWait (s : State) (k : Nat → Out) : Option Out :=
  match s.tb with
  | none => some (abortXmit s)
  | some tb => if reached s.cfg s.tick (waitPoint s.cfg s.pos tb) then some (k tb) else none

/-- PHASE <- TRANSMITTING, SIDX <- 0, PIDX <- 0 (R707). -/
def beginSymbols (s : State) : State := { s with phase := .transmitting, sidx := 0, pidx := 0 }

/-- SIDX and PIDX at a symbol's end (R707, R708). -/
def advanceSymbol (s : State) : State := { s with sidx := s.sidx + 1, pidx := s.pidx + 1 }

/-- Symbol SIDX begins at the tick `start`: TB <- its end, and the wait for its write-ahead point (R707). -/
def beginSymbol (start : Nat) (s : State) : State :=
  { s with tb := some (tickAdd s.cfg start (durTicks s.pidx)), pos := .writeAhead }

/-- The settle wait, then symbol 0 (R706, R707). -/
def firstSymbolStep (s : State) : Option Out :=
  pollWait s fun start => .next (beginSymbol start (beginSymbols s))

/-- The write-ahead step of symbol SIDX, whose end is `target`: the lateness check, then the switch to the
next symbol's tone when it differs from the current one, or nothing (R707, R711, R715). -/
def symbolStep (target : Nat) (s : State) : Out :=
  let t := { markLate target s with pos := .boundary, stalled := false }
  if t.sidx + 1 < t.nsym then
    needValue t.sym[t.sidx + 1]? s fun b =>
      needValue t.cur s fun c =>
        if b = c then .next t
        else .next (logAct (.toneSet (toneOf t.cfg b)) { t with cur := some b })
  else .next t

/-- The write-ahead wait, then the write-ahead step (R707). -/
def writeAheadStep (s : State) : Option Out := pollWait s fun target => symbolStep target s

/-- RS1 (R709). -/
def toneOffStep (s : State) : Out := callStep .toneOff .routeMic { s with phase := .restoring }

/-- The wait for symbol SIDX's end, then the next symbol, or RS1 after the last (R707, R709). -/
def boundaryStep (s : State) : Option Out :=
  pollWait s fun start =>
    let t := advanceSymbol s
    if t.sidx = t.nsym then toneOffStep t else .next (beginSymbol start t)

/-! ## RESTORING (46_transmitter.md R709) -/

/-- RS3. -/
def cssRestoreStep (s : State) : Out :=
  needValue s.savCss s fun c => callStep (.cssSet c) .filterRestore s

/-- RS4: SAV_FILT is read only when SAV_FILT_OK = 1. -/
def filterRestoreStep (s : State) : Out :=
  needValue s.savFiltOk s fun ok =>
    if ok then needValue s.savFilt s fun v => feWriteStep v .ampRestore s
    else feWriteStep s.cfg.filterSafeDefault .ampRestore s

/-- RS6. -/
def unmuteStep (s : State) : Out := callStep (.muteDrive .deasserted) .finish s

/-- RS5 when the amplifier was off; otherwise the next call on the path, RS6. -/
def ampRestoreStep (s : State) : Out :=
  needValue s.savAmpOn s fun on =>
    if on then unmuteStep s else callStep (.ampDisable s.cfg.ampMode) .unmute s

/-! ## The sequencer inside XMIT and POSTID -/

/-- The sequencer's next step inside an XMIT or POSTID; none when it is held in a wait_until, or when
no command is executing (R711, 00_scope.md R18). -/
def xmitStep (s : State) : Option Out :=
  match s.pos with
  | .idle => none
  | .fail => some (completeXmit 0 s)
  | .txenQuery len => some (txenStep len s)
  | .cssGet len => some (packetStep len s)
  | .cssOff => some (callStep (.cssSet .none) .filterRead s)
  | .filterRead => some (feReadStep s)
  | .filterOff ok v => some (feWriteStep s.cfg.filterOffValue .firstTone (saveFilter ok v s))
  | .firstTone => some (firstToneStep s)
  | .routeTone => some (callStep (.routeSelect .tone) .ampQuery s)
  | .ampQuery => some (ampQueryStep s)
  | .ampEnable => some (callStep (.ampEnable s.cfg.ampMode) .mute s)
  | .mute => some (callStep (.muteDrive .asserted) .settle s)
  | .settle => some (settleStep s)
  | .firstSymbol => firstSymbolStep s
  | .writeAhead => writeAheadStep s
  | .boundary => boundaryStep s
  | .routeMic => some (callStep (.routeSelect .mic) .cssRestore s)
  | .cssRestore => some (cssRestoreStep s)
  | .filterRestore => some (filterRestoreStep s)
  | .ampRestore => some (ampRestoreStep s)
  | .unmute => some (unmuteStep s)
  | .finish => some (completeXmit 1 s)

/-! ## The two commands -/

/-- R700. -/
def execXmit (len : Byte) (s : State) : Out := startXmit len s

/-- R712: ENCODE PTTID_OP, PTTID_ARG, unit, with RES <- 26 internally, then XMIT 26. The encode is
carried by the first call's step (R711). -/
def execPostid (unit : Half) (s : State) : Out :=
  match encodeStages s.cfg.pttidOp s.cfg.pttidArg unit s with
  | some t => startXmit (BitVec.ofNat 8 PACKET_LEN) { t with res := some encodeResult }
  | none => failWith .uninit s

end Sys2Proof.Machine
end

