-- ==== Sys2Proof/Machine/Dispatch.lean ====
section
/-! DEFINITION. One arm per command: each calls its own meaning. -/

namespace Sys2Proof.Machine

def exec (i : Instr) (s : State) : Host.Outcome State Fault Refusal :=
  match i with
  | .crcinit => Sys2Proof.Machine.execCrcinit s
  | .crcbyte b => Sys2Proof.Machine.execCrcbyte b s
  | .crcread => Sys2Proof.Machine.execCrcread s
  | .leader => Sys2Proof.Machine.execLeader s
  | .frame op arg unit => Sys2Proof.Machine.execFrame op arg unit s
  | .fecenc => Sys2Proof.Machine.execFecenc s
  | .ilv => Sys2Proof.Machine.execIlv s
  | .diff => Sys2Proof.Machine.execDiff s
  | .encode op arg unit null => Sys2Proof.Machine.execEncode op arg unit null s
  | .pktwr idx v => Sys2Proof.Machine.execPktwr idx v s
  | .pktrd idx => Sys2Proof.Machine.execPktrd idx s
  | .xmit len => Sys2Proof.Machine.execXmit len s
  | .postid unit => Sys2Proof.Machine.execPostid unit s

end Sys2Proof.Machine
end

