-- ==== Sys2Proof/Machine/Port.lean ====
section
/-! DEFINITION. The command port (10_state.md R149), the host's acts, and which agent moves next
(10_state.md R151; log entries 4, 5). -/

namespace Sys2Proof.Machine

/-- The port takes a word: the trace records it, and the decoded command runs, or ILLEGAL is raised
(10_state.md R150, 60_exceptions.md R811). DESIGN CHOICE, unsafe: log entry 24. Acceptance and the command's
first sequencer step (MODE.query for XMIT and POSTID) are one step at one tick; R149 and R711 leave open
whether ticks come between them. -/
def acceptWord (w : CmdWord) (s : State) : Out :=
  match decode w with
  | .ok i => exec i (logAct (.accepted w) s)
  | .error _ => failWith .illegal (logAct (.accepted w) s)

/-- The host reads RES: no value raises UNINIT (60_exceptions.md R812). -/
def hostReadRes (s : State) : Out :=
  match s.res with
  | some _ => .next s
  | none => failWith .uninit s

/-- The host's next act. -/
def hostStep (a : HostAct) (s : State) : Out :=
  match a with
  | .issue w => acceptWord w s
  | .readRes => hostReadRes s

/-- The port, when PHASE = IDLE and no command is executing: the host's next act, or none when the host
has none (10_state.md R149). -/
def portStep (s : State) : Option Out :=
  match s.env.host with
  | [] => none
  | a :: rest => some (hostStep a { s with env := { s.env with host := rest } })

/-- The sequencer's next step, or none when it has none: it is held in a wait_until, or it waits IDLE
for a command (00_scope.md R18, 70_reset_and_hazards.md R902). -/
def seqStep (s : State) : Option Out :=
  if s.pos = .idle then (if s.phase = .idle then portStep s else none) else xmitStep s

/-- One agent's move. A sequencer move while it has no step is a poll without effect (00_scope.md R18;
log entry 7). -/
def moveStep (m : Move) (s : State) : Out :=
  match m with
  | .tick => .next (tickStep s)
  | .sequencer => (seqStep s).getD (.next s)
  | .reset => .next (resetBlock s)

/-- The eager schedule of 95_test_vectors.md: the sequencer whenever it has a step, else the tick
counter. -/
def eagerStep (s : State) : Out := (seqStep s).getD (.next (tickStep s))

/-- Take the next move from the script, or by the fallback. -/
def scheduledStep (s : State) : Out :=
  match s.env.moves with
  | m :: rest => moveStep m { s with env := { s.env with moves := rest } }
  | [] =>
    match s.env.fallback with
    | .eager => eagerStep s
    | .free =>
      moveStep (Config.freeMove s.env.draws) { s with env := { s.env with draws := s.env.draws + 1 } }

/-- The machine with the word `w` as the host's next act, the command port free and the sequencer as
the next agent to move (log entry 5). -/
def offerWord (w : CmdWord) (s : State) : State :=
  { s with
    phase := .idle
    pos := .idle
    env := { s.env with host := .issue w :: s.env.host, moves := .sequencer :: s.env.moves } }

end Sys2Proof.Machine
end

