-- ==== Sys2Proof/Machine/Step.lean ====
section
/-! DEFINITION. One step: one move of one agent. -/

namespace Sys2Proof.Machine

/-- One move of the agent whose turn it is. -/
def step (s : State) : Host.Outcome State Fault Refusal := scheduledStep s

/-- The machine whose next step takes and runs the command word whose lowest `nbits` bits are w's and
whose other bits are zero (log entry 5). -/
def State.withFetchWord (s : State) (nbits w : Nat) : State :=
  offerWord (BitVec.ofNat 64 (w % 2 ^ nbits)) s

end Sys2Proof.Machine
end

