-- ==== Sys2Proof/Safety.lean ====
section
/-! DEFINITION. The terms claims are stated in: the closed forms the spec gives beside its pseudocode
(41_crc_frame.md R449, 42_convolutional.md R502, 43_interleave.md R552, 44_diffcode.md R602,
45_encode.md R654, 46_transmitter.md R713), views of the event trace, the machine's invariant, and what a
safe run is (60_exceptions.md R814). -/

namespace Sys2Proof.Machine

/-! ## Closed forms -/

/-- The bits of b, MSB-first, shifted into the CRC one at a time: the second form of crc_step
(41_crc_frame.md R449). -/
def crcBitwise (c : Half) (b : Byte) : Half :=
  [7, 6, 5, 4, 3, 2, 1, 0].foldl
    (fun c j => (c <<< 1) ^^^ (if Bool.xor (c.getLsbD 15) (b.getLsbD j) then 0x1021 else 0x0000)) c

/-- Byte i of the packet buffer, 0 where it holds no value (claims say where it holds one). -/
def pktByte (m : Memory) (i : Nat) : Byte := (cellRead m i).getD 0

/-- Every index from lo up to, not including, hi holds a value. -/
def written (m : Memory) (lo hi : Nat) : Prop := ∀ i, lo ≤ i → i < hi → (cellRead m i).isSome = true

/-- x[t - d] of 42_convolutional.md R502: input bit t - d of the frame D = PKT[12..18], and 0 before
the first. -/
def frameBit (m : Memory) (t d : Nat) : Bool :=
  if d ≤ t then (pktByte m (12 + (t - d) / 8)).getLsbD ((t - d) % 8) else false

/-- p[t] of 42_convolutional.md R502. -/
def parityBit (m : Memory) (t : Nat) : Bool :=
  Bool.xor (Bool.xor (frameBit m t 0) (frameBit m t 2)) (Bool.xor (frameBit m t 5) (frameBit m t 6))

/-- Position q of the payload: PKT[12 + q div 8][7 - q mod 8] (43_interleave.md R552). -/
def payloadBit (m : Memory) (q : Nat) : Bool := (pktByte m (12 + q / 8)).getLsbD (7 - q % 8)

/-- The coded byte of c entered with carried bit p (44_diffcode.md R602). -/
def lineCode (p : Bool) (c : Byte) : Byte := ~~~(c ^^^ ((c >>> 1) ||| (bitByte p <<< 7)))

/-- The carried bit on entry to packet byte i (44_diffcode.md R602). -/
def carriedBit (m : Memory) (i : Nat) : Bool := if i = 0 then false else (pktByte m (i - 1)).getLsbD 0

/-- The CRC of the four frame bytes, by the bitwise form (41_crc_frame.md R453). -/
def frameCrc (op arg : Byte) (unit : Half) : Half :=
  crcBitwise (crcBitwise (crcBitwise (crcBitwise 0x0000 op) arg) (unit.extractLsb' 8 8))
    (unit.extractLsb' 0 8)

/-- Frame byte k (41_crc_frame.md R455); 0 above 6. -/
def frameByte (op arg : Byte) (unit : Half) (k : Nat) : Byte :=
  match k with
  | 0 => op
  | 1 => arg
  | 2 => unit.extractLsb' 8 8
  | 3 => unit.extractLsb' 0 8
  | 4 => (frameCrc op arg unit).extractLsb' 0 8
  | 5 => (frameCrc op arg unit).extractLsb' 8 8
  | _ => 0x00

/-- Bit t - d of the frame of 41_crc_frame.md R455, and 0 before the first. -/
def encFrameBit (op arg : Byte) (unit : Half) (t d : Nat) : Bool :=
  if d ≤ t then (frameByte op arg unit ((t - d) / 8)).getLsbD ((t - d) % 8) else false

/-- Position q, MSB-first, of fec(frame(op, arg, unit)) (45_encode.md R654, 42_convolutional.md R502). -/
def encCodedBit (op arg : Byte) (unit : Half) (q : Nat) : Bool :=
  if q < 56 then (frameByte op arg unit (q / 8)).getLsbD (7 - q % 8)
  else
    let t := 8 * ((q - 56) / 8) + (7 - q % 8)
    Bool.xor (Bool.xor (encFrameBit op arg unit t 0) (encFrameBit op arg unit t 2))
      (Bool.xor (encFrameBit op arg unit t 5) (encFrameBit op arg unit t 6))

/-- Bit n, MSB-first, of leader ++ ilv(fec(frame(op, arg, unit))) (45_encode.md R654). -/
def encPlainBit (p : Params) (op arg : Byte) (unit : Half) (n : Nat) : Bool :=
  if n < 56 then false
  else if n < 96 then ((syncBytes p).getD ((n - 56) / 8) 0).getLsbD (7 - n % 8)
  else encCodedBit op arg unit (7 * ((n - 96) % 16) + (n - 96) / 16)

/-- Bit n, MSB-first, of enc(op, arg, unit) (45_encode.md R654): 1 exactly when the plain bit equals the
one before it, the bit before the first being DIFF_INIT (44_diffcode.md R600). -/
def encBit (p : Params) (op arg : Byte) (unit : Half) (n : Nat) : Bool :=
  encPlainBit p op arg unit n == (if n = 0 then false else encPlainBit p op arg unit (n - 1))

/-- c(n) of 46_transmitter.md R713: ticks from the settle target to the end of symbol n. -/
def symbolEnd (n : Nat) : Nat := 25 * ((n + 1) / 3) + [0, 8, 16].getD ((n + 1) % 3) 0

/-! ## Illegal words (30_encoding.md R302, R303, R305) -/

/-- The operand format of an OPC in the opcode map, if it is there (R303). -/
def formatOf (opc : Byte) : Option Format :=
  match opc.toNat with
  | 0x01 => some .z
  | 0x02 => some .a
  | 0x03 => some .z
  | 0x10 => some .z
  | 0x11 => some .abu
  | 0x12 => some .z
  | 0x13 => some .z
  | 0x14 => some .z
  | 0x18 => some .abun
  | 0x20 => some .ab
  | 0x21 => some .a
  | 0x30 => some .a
  | 0x31 => some .u
  | _ => none

/-- A format leaves a field it does not use non-zero (R302). -/
def unusedNonzero (f : Format) (w : CmdWord) : Prop :=
  match f with
  | .z => aField w ≠ 0 ∨ bField w ≠ 0 ∨ uField w ≠ 0 ∨ nField w ≠ 0
  | .a => bField w ≠ 0 ∨ uField w ≠ 0 ∨ nField w ≠ 0
  | .ab => uField w ≠ 0 ∨ nField w ≠ 0
  | .abu => nField w ≠ 0
  | .abun => False
  | .u => aField w ≠ 0 ∨ bField w ≠ 0 ∨ nField w ≠ 0

/-- R305 (a) to (d). -/
def illegalWord (w : CmdWord) : Prop :=
  formatOf (opcField w) = none ∨ rsvField w ≠ 0 ∨
    (∃ f, formatOf (opcField w) = some f ∧ unusedNonzero f w) ∨
    ((opcField w = 0x20 ∨ opcField w = 0x21) ∧ 25 < (aField w).toNat)

/-! ## Sequences -/

/-- Commands one after the other (20_memory.md R213). -/
def execAll : List Instr → State → Out
  | [], s => .next s
  | i :: is, s =>
    match exec i s with
    | .next t => execAll is t
    | .fault r => .fault r
    | .refused r => .refused r

/-- n steps of the machine. -/
abbrev run (n : Nat) (s : State) : Out := Host.Core.run Sys2Proof.core n s

/-! ## Views of the trace -/

/-- A port call of 10_state.md R141 to R148, as against a command-port event. -/
def Act.isPortCall : Act → Bool
  | .accepted _ => false
  | .completed _ => false
  | _ => true

/-- A call on the tone generator (10_state.md R145). -/
def Act.isToneCall : Act → Bool
  | .toneSet _ => true
  | .toneOff => true
  | _ => false

/-- A call that changes a collaborator (20_memory.md R208): every port call but the queries. -/
def Act.isMutating : Act → Bool
  | .accepted _ => false
  | .completed _ => false
  | .modeQuery _ => false
  | .txenQuery _ => false
  | .cssGet _ => false
  | .feRead _ _ _ => false
  | .ampQuery _ _ => false
  | _ => true

/-- The events of acts made at one tick, in the order of the list. -/
def eventsAt (tick : Nat) (acts : List Act) : List Event := acts.map fun a => ⟨tick, a⟩

/-- The port calls of a trace, newest first. -/
def portCalls (tr : List Event) : List Event := tr.filter fun e => e.act.isPortCall

/-- How many tone-generator calls a trace holds. -/
def toneCalls (tr : List Event) : Nat := (tr.filter fun e => e.act.isToneCall).length

/-- T of 46_transmitter.md R714: the changes between neighbours in a symbol sequence. -/
def changes : List Bool → Nat
  | a :: b :: rest => (if a = b then 0 else 1) + changes (b :: rest)
  | _ => 0

/-- The answer of the newest CSS.get. -/
def lastCss : List Event → Option CssValue
  | [] => none
  | e :: es => match e.act with
    | .cssGet c => some c
    | _ => lastCss es

/-- The answer of the newest FE.read. -/
def lastFeRead : List Event → Option (Bool × Half)
  | [] => none
  | e :: es => match e.act with
    | .feRead _ ok v => some (ok, v)
    | _ => lastFeRead es

/-- The answer of the newest AMP.query. -/
def lastAmp : List Event → Option Bool
  | [] => none
  | e :: es => match e.act with
    | .ampQuery _ on => some on
    | _ => lastAmp es

/-! ## Places in a transmission -/

/-- The PHASE that goes with a place in the sequence (10_state.md R115). -/
def Pos.phase : Pos → Phase
  | .idle => .idle
  | .fail => .precheck
  | .txenQuery _ => .precheck
  | .cssGet _ => .precheck
  | .cssOff => .armed
  | .filterRead => .armed
  | .filterOff _ _ => .armed
  | .firstTone => .armed
  | .routeTone => .armed
  | .ampQuery => .armed
  | .ampEnable => .armed
  | .mute => .armed
  | .settle => .armed
  | .firstSymbol => .armed
  | .writeAhead => .transmitting
  | .boundary => .transmitting
  | .routeMic => .restoring
  | .cssRestore => .restoring
  | .filterRestore => .restoring
  | .ampRestore => .restoring
  | .unmute => .restoring
  | .finish => .restoring

/-- How far a transmission has come; 4 and above is armed (46_transmitter.md R705). -/
def Pos.rank : Pos → Nat
  | .idle => 0
  | .fail => 1
  | .txenQuery _ => 2
  | .cssGet _ => 3
  | .cssOff => 4
  | .filterRead => 5
  | .filterOff _ _ => 6
  | .firstTone => 7
  | .routeTone => 8
  | .ampQuery => 9
  | .ampEnable => 10
  | .mute => 11
  | .settle => 12
  | .firstSymbol => 13
  | .writeAhead => 14
  | .boundary => 15
  | .routeMic => 16
  | .cssRestore => 17
  | .filterRestore => 18
  | .ampRestore => 19
  | .unmute => 20
  | .finish => 21

/-! ## Invariants and safe runs -/

/-- What holds in every state a run reaches: the packet buffer keeps its canonical form, tick values
stay below 2^TICK_BITS (00_scope.md R12), PHASE agrees with the sequence (10_state.md R115), the indices
stay in their ranges (R117, R118), and a transmission has written each register before it reads it
(R116): CUR is the symbol whose tone is set, PIDX is SIDX mod 3 (46_transmitter.md R708). -/
structure State.Inv (s : State) : Prop where
  pkt_wf : s.pkt.wf
  tick_lt : s.tick < tickSpan s.cfg
  tb_lt : ∀ t, s.tb = some t → t < tickSpan s.cfg
  phase_pos : s.phase = s.pos.phase
  sym_le : s.sym.length ≤ s.cfg.symCap
  nsym_le : s.nsym ≤ s.cfg.symCap
  sidx_le : s.sidx ≤ s.cfg.symCap
  packet : 4 ≤ s.pos.rank → 1 ≤ s.nsym ∧ s.nsym ≤ s.sym.length
  css_saved : 4 ≤ s.pos.rank → s.savCss.isSome = true
  filter_saved : 7 ≤ s.pos.rank →
    s.savFiltOk = some false ∨ (s.savFiltOk = some true ∧ s.savFilt.isSome = true)
  amp_saved : 10 ≤ s.pos.rank → s.savAmpOn.isSome = true
  tb_set : 13 ≤ s.pos.rank → s.tb.isSome = true
  first_tone : 8 ≤ s.pos.rank → s.pos.rank ≤ 13 → s.cur = s.sym[0]?
  in_symbol : s.pos = .writeAhead →
    s.sidx < s.nsym ∧ s.pidx.val = s.sidx % 3 ∧ s.cur = s.sym[s.sidx]?
  in_symbols : s.pos = .boundary →
    s.sidx < s.nsym ∧ s.pidx.val = s.sidx % 3 ∧ s.cur = s.sym[min (s.sidx + 1) (s.nsym - 1)]?

/-- The saved registers hold what the queries of this transmission answered (46_transmitter.md R705,
R718): the newest CSS.get, FE.read and AMP.query of the trace. -/
structure State.SavedFromQueries (s : State) : Prop where
  css : 4 ≤ s.pos.rank → s.savCss.isSome = true ∧ s.savCss = lastCss s.trace
  filterPending : ∀ ok v, s.pos = .filterOff ok v → lastFeRead s.trace = some (ok, v)
  filter : 7 ≤ s.pos.rank → ∃ ok v, lastFeRead s.trace = some (ok, v) ∧ s.savFiltOk = some ok ∧
    (ok = true → s.savFilt = some v)
  amp : 10 ≤ s.pos.rank → s.savAmpOn.isSome = true ∧ s.savAmpOn = lastAmp s.trace

/-- No fault bit is set: the premise of every claim about success (60_exceptions.md R814). -/
def State.faultFree (s : State) : Prop :=
  s.fault.illegal = false ∧ s.fault.uninit = false ∧ s.fault.late = false

/-- The command port is free and the host's next act is `a`, after which `rest` follow. -/
def State.offers (s : State) (a : HostAct) (rest : List HostAct) : Prop :=
  s.phase = .idle ∧ s.pos = .idle ∧ s.env.host = a :: rest

/-- The next move is the platform's reset. -/
def State.resetNext (s : State) : Prop :=
  s.env.moves.head? = some .reset ∨
    (s.env.moves = [] ∧ s.env.fallback = .free ∧ Config.freeMove s.env.draws = .reset)

/-- No move is scripted and the schedule is the eager one of 95_test_vectors.md. -/
def State.eager (s : State) : Prop := s.env.moves = [] ∧ s.env.fallback = .eager

/-- The sequencer (or, between commands, the host) has the turn, under any schedule, and `s0` is the state
with the turn taken from the script or the free values (10_state.md R151; log entry 4). -/
def State.sequencerTurn (s s0 : State) : Prop :=
  (∃ rest, s.env.moves = .sequencer :: rest ∧ s0 = { s with env := { s.env with moves := rest } }) ∨
    (s.eager ∧ s0 = s) ∨
    (s.env.moves = [] ∧ s.env.fallback = .free ∧ Config.freeMove s.env.draws = .sequencer ∧
      s0 = { s with env := { s.env with draws := s.env.draws + 1 } })

end Sys2Proof.Machine
end

