-- ==== Sys2Proof/Certificates/Slice0/Obligations.lean ====
section
/-! DEFINITION. The statements for the provers: the spec's numbered rules about what a command or the
machine does. Each docstring names the rule it formalises. Where a clause rests on the model's own choice,
the docstring names the log entry. -/

open Sys2Proof Sys2Proof.Machine

/-! ## Encoding -/

/-- R310: `decode` is a bijection from legal words onto the well-formed commands. -/
def Obligations.DecodeIsBijection : Prop :=
  (∀ i : Instr, i.wellFormed = true → decode (encode i) = .ok i) ∧
    ∀ (w : CmdWord) (i : Instr), decode w = .ok i → i.wellFormed = true ∧ encode i = w

/-- R304, R305 (d): a word decodes to the command of a table row exactly when the row's mask and match
select it and, for PKTWR and PKTRD, its index is at most 25. -/
def Obligations.TableRowSelectsItsCommand : Prop :=
  ∀ r ∈ opcodeTable, ∀ w : CmdWord,
    (∃ i, decode w = .ok i ∧ i.mnemonic = r.mnemonic) ↔
      r.selects w = true ∧ (r.mnemonic = "PKTWR" ∨ r.mnemonic = "PKTRD" → (aField w).toNat ≤ 25)

/-- R304: no two rows match the same word. -/
def Obligations.NoWordMatchesTwoRows : Prop :=
  ∀ w : CmdWord, ∀ r ∈ opcodeTable, ∀ r' ∈ opcodeTable,
    r.selects w = true → r'.selects w = true → r = r'

/-- Words of 95_test_vectors.md decode to the commands they stand for. -/
def Obligations.WrittenWordsDecode : Prop :=
  decode 0x0000000000000102 = .ok (.crcbyte 0x01) ∧
  decode 0x0000001234000111 = .ok (.frame 0x01 0x00 0x1234) ∧
  decode 0x0000011234000118 = .ok (.encode 0x01 0x00 0x1234 true) ∧
  decode 0x0000000000A50320 = .ok (.pktwr 3 0xA5) ∧
  decode 0x0000000000001A30 = .ok (.xmit 26) ∧
  decode 0x0000001234000031 = .ok (.postid 0x1234) ∧
  decode 0x8000000000000002 = .error .reservedBits

/-- R305: a word is illegal exactly when one of (a) to (d) holds; an illegal word raises ILLEGAL, changes
no other state and makes no port call. `trace := t.trace` leaves open what the model records of the word
itself (log entry 8); the model's own lists lose the host act and the move just used. -/
def Obligations.IllegalWordOnlySetsIllegal : Prop :=
  (∀ w, illegalWord w ↔ ∀ i, decode w ≠ .ok i) ∧
    ∀ (s s0 : State) (w : CmdWord) (hs : List HostAct),
      s.offers (.issue w) hs → s.sequencerTurn s0 → illegalWord w →
      ∃ t, step s = .next t ∧ portCalls t.trace = portCalls s.trace ∧
        t = { s0 with
          fault := { s.fault with illegal := true }
          trace := t.trace
          env := { s0.env with host := hs } }

/-! ## The step -/

/-- R149, R150, R309: when the port is free and the host's next act is a legal word, the step of the
sequencer's turn, under any schedule, is exec of the decoded command, in the state where the word has left
the host's list and stands in the trace. That acceptance and exec are one step at one tick is the model's
choice (log entry 24). -/
def Obligations.StepRunsDecodedInstruction : Prop :=
  ∀ (s s0 : State) (w : CmdWord) (i : Instr) (hs : List HostAct),
    s.offers (.issue w) hs → s.sequencerTurn s0 → decode w = .ok i →
    step s = exec i { s0 with
      trace := ⟨s.tick, .accepted w⟩ :: s.trace
      env := { s0.env with host := hs } }

/-- Log entry 5: withFetchWord offers the word so that the very next step runs it, and leaves the outside
as it was. -/
def Obligations.FetchedWordRunsNext : Prop :=
  ∀ (s : State) (nbits w : Nat) (i : Instr),
    decode (BitVec.ofNat 64 (w % 2 ^ nbits)) = .ok i →
    step (s.withFetchWord nbits w) = exec i { s with
      phase := .idle
      pos := .idle
      trace := ⟨s.tick, .accepted (BitVec.ofNat 64 (w % 2 ^ nbits))⟩ :: s.trace }

/-- R149, R719: while a command is executing, no step takes a host act or accepts a word. -/
def Obligations.BusyBlockAcceptsNothing : Prop :=
  ∀ s t : State, s.phase ≠ .idle ∨ s.pos ≠ .idle → step s = .next t →
    t.env.host = s.env.host ∧ ∀ e ∈ t.trace, e ∈ s.trace ∨ ∀ w, e.act ≠ .accepted w

/-- R811, R814, R822: no command and no fault stops the block; every step has a next state. -/
def Obligations.StepAlwaysGoesOn : Prop := ∀ s : State, ∃ t, step s = .next t

/-! ## The CRC accumulator -/

/-- R450, R451, R452, with R449's bit-at-a-time form for R451: CRCINIT, CRCBYTE and CRCREAD write CRC, CRC
and RES, and nothing else but the trace's completion event (R150). -/
def Obligations.CrcCommandsEffect : Prop :=
  (∀ s : State, exec .crcinit s = .next { s with
    crc := 0x0000, trace := ⟨s.tick, .completed s.res⟩ :: s.trace }) ∧
  (∀ (b : Byte) (s : State), exec (.crcbyte b) s = .next { s with
    crc := crcBitwise s.crc b, trace := ⟨s.tick, .completed s.res⟩ :: s.trace }) ∧
  ∀ s : State, exec .crcread s = .next { s with
    res := some (s.crc.setWidth 32)
    trace := ⟨s.tick, .completed (some (s.crc.setWidth 32))⟩ :: s.trace }

/-- R451: crc_step is linear. -/
def Obligations.CrcStepIsLinear : Prop :=
  ∀ (c c' : Half) (b b' : Byte), crcStep (c ^^^ c') (b ^^^ b') = crcStep c b ^^^ crcStep c' b'

/-- R449, R450, R451, R452: CRCINIT, one CRCBYTE per byte, then CRCREAD leave the CRC of the bytes in RES
and in CRC, and touch no other register. -/
def Obligations.CrcSequenceComputesCrc16 : Prop :=
  ∀ (bs : List Byte) (s : State), ∃ t,
    execAll (.crcinit :: bs.map .crcbyte ++ [.crcread]) s = .next t ∧
    t = { s with
      crc := bs.foldl crcBitwise 0x0000
      res := some ((bs.foldl crcBitwise 0x0000).setWidth 32)
      trace := t.trace } ∧
    portCalls t.trace = portCalls s.trace

/-- R454, R455, R209: FRAME writes the raw frame to PKT[12..18] and its CRC to CRC. -/
def Obligations.FrameAssemblesRawFrame : Prop :=
  ∀ (op arg : Byte) (unit : Half) (s : State), ∃ t, exec (.frame op arg unit) s = .next t ∧
    t = { s with
      pkt := t.pkt
      crc := frameCrc op arg unit
      trace := ⟨s.tick, .completed s.res⟩ :: s.trace } ∧
    (∀ k, k < 7 → cellRead t.pkt (12 + k) = some (frameByte op arg unit k)) ∧
    ∀ j, j < 12 ∨ 18 < j → cellRead t.pkt j = cellRead s.pkt j

/-! ## The packet buffer -/

/-- R403: LEADER writes the preamble to PKT[0..6] and SYNC_PATTERN to PKT[7..11]. -/
def Obligations.LeaderWritesPreambleAndSync : Prop :=
  ∀ s : State, ∃ t, exec .leader s = .next t ∧
    t = { s with pkt := t.pkt, trace := ⟨s.tick, .completed s.res⟩ :: s.trace } ∧
    (∀ j, j < 7 → cellRead t.pkt j = some 0x00) ∧
    (∀ k, k < 5 → cellRead t.pkt (7 + k) = s.cfg.sync.toList[k]?) ∧
    ∀ j, 11 < j → cellRead t.pkt j = cellRead s.pkt j

/-- R401, R202: PKTWR writes the one byte at its index; with an index above 25, which no legal word has, it
raises ILLEGAL and does nothing else (without a completion event: log entry 8). -/
def Obligations.PktwrWritesOneByte : Prop :=
  ∀ (i v : Byte) (s : State),
    (i.toNat ≤ 25 → ∃ t, exec (.pktwr i v) s = .next t ∧
      t = { s with pkt := t.pkt, trace := ⟨s.tick, .completed s.res⟩ :: s.trace } ∧
      cellRead t.pkt i.toNat = some v ∧
      ∀ j, j ≠ i.toNat → cellRead t.pkt j = cellRead s.pkt j) ∧
    (25 < i.toNat → exec (.pktwr i v) s = .next { s with fault := { s.fault with illegal := true } })

/-- R402, R202, R812: PKTRD writes the byte at its index to RES; a byte with no value raises UNINIT and an
index above 25 ILLEGAL, and then nothing else changes (without a completion event: log entry 8). -/
def Obligations.PktrdReadsOneByte : Prop :=
  ∀ (i : Byte) (s : State),
    (∀ v, i.toNat ≤ 25 → cellRead s.pkt i.toNat = some v →
      exec (.pktrd i) s = .next { s with
        res := some (v.setWidth 32), trace := ⟨s.tick, .completed (some (v.setWidth 32))⟩ :: s.trace }) ∧
    (i.toNat ≤ 25 → cellRead s.pkt i.toNat = none →
      exec (.pktrd i) s = .next { s with fault := { s.fault with uninit := true } }) ∧
    (25 < i.toNat → exec (.pktrd i) s = .next { s with fault := { s.fault with illegal := true } })

/-! ## The encoder's stages -/

/-- R502, with R500's CSR: FECENC's parity bit t is x[t] ⊕ x[t-2] ⊕ x[t-5] ⊕ x[t-6], at bit t mod 8 of
PKT[19 + t div 8]; CSR holds the last 8 input bits; the raw frame and every other byte stay. -/
def Obligations.FecencParityClosedForm : Prop :=
  ∀ s : State, written s.pkt 12 19 → ∃ t, exec .fecenc s = .next t ∧
    t = { s with pkt := t.pkt, csr := t.csr, trace := ⟨s.tick, .completed s.res⟩ :: s.trace } ∧
    written t.pkt 19 26 ∧
    (∀ n, n < 56 → (pktByte t.pkt (19 + n / 8)).getLsbD (n % 8) = parityBit s.pkt n) ∧
    (∀ d, d < 8 → t.csr.getLsbD d = frameBit s.pkt 55 d) ∧
    ∀ j, j < 19 ∨ 25 < j → cellRead t.pkt j = cellRead s.pkt j

/-- R551, R552: ILV moves the payload bit at position i to position k(i) = 16 (i mod 7) + i div 7, so
position p takes the bit at 7 (p mod 16) + p div 16. -/
def Obligations.IlvPermutesPayloadBits : Prop :=
  ∀ s : State, written s.pkt 12 26 → ∃ t, exec .ilv s = .next t ∧
    t = { s with pkt := t.pkt, trace := ⟨s.tick, .completed s.res⟩ :: s.trace } ∧
    written t.pkt 12 26 ∧
    (∀ i, i < 112 → payloadBit t.pkt (16 * (i % 7) + i / 7) = payloadBit s.pkt i) ∧
    (∀ p, p < 112 → payloadBit t.pkt p = payloadBit s.pkt (7 * (p % 16) + p / 16)) ∧
    ∀ j, j < 12 ∨ 25 < j → cellRead t.pkt j = cellRead s.pkt j

/-- The ILV corner cases of 95_test_vectors.md: nine ILVs in a row restore any payload. -/
def Obligations.NineIlvsRestorePayload : Prop :=
  ∀ s : State, s.pkt.wf → written s.pkt 12 26 →
    ∃ t, execAll (List.replicate 9 .ilv) s = .next t ∧ t.pkt = s.pkt

/-- R600, R601, R602: DIFF codes byte c, entered with carried bit p, to ~(c ⊕ ((c >> 1) | (p << 7))); the
carry starts at 0, whatever DPREV held, and is the last bit of the byte before; DPREV ends as the last input
bit. -/
def Obligations.DiffCodesEachByte : Prop :=
  ∀ s : State, written s.pkt 0 26 → ∃ t, exec .diff s = .next t ∧
    t = { s with
      pkt := t.pkt
      dprev := (pktByte s.pkt 25).getLsbD 0
      trace := ⟨s.tick, .completed s.res⟩ :: s.trace } ∧
    (∀ i, i < 26 → cellRead t.pkt i = some (lineCode (carriedBit s.pkt i) (pktByte s.pkt i))) ∧
    ∀ j, 25 < j → cellRead t.pkt j = cellRead s.pkt j

/-- R812: FECENC, ILV and DIFF check before they write: an unwritten byte among those they read raises
UNINIT and changes nothing else (without a completion event: log entry 8). -/
def Obligations.StagesCheckBeforeTheyWrite : Prop :=
  ∀ s : State,
    (¬ written s.pkt 12 19 → exec .fecenc s = .next { s with fault := { s.fault with uninit := true } }) ∧
    (¬ written s.pkt 12 26 → exec .ilv s = .next { s with fault := { s.fault with uninit := true } }) ∧
    (¬ written s.pkt 0 26 → exec .diff s = .next { s with fault := { s.fault with uninit := true } })

/-- R208: FRAME, LEADER and FECENC are idempotent: run twice, they leave what one run leaves, but for the
trace. -/
def Obligations.FrameLeaderFecencIdempotent : Prop :=
  ∀ (i : Instr) (s t : State),
    (i = .leader ∨ i = .fecenc ∨ ∃ op arg unit, i = .frame op arg unit) → s.pkt.wf → exec i s = .next t →
    ∃ u, exec i t = .next u ∧ u = { t with trace := u.trace }

/-! ## ENCODE -/

/-- R654, R652: ENCODE with N = 0 leaves enc(op, arg, unit) in PKT[0..25] and 26 in RES. -/
def Obligations.EncodeLeavesEncodedPacket : Prop :=
  ∀ (op arg : Byte) (unit : Half) (s : State), ∃ t, exec (.encode op arg unit false) s = .next t ∧
    t = { s with
      pkt := t.pkt
      crc := frameCrc op arg unit
      csr := 0x00
      dprev := encPlainBit s.cfg op arg unit 207
      res := some 26
      trace := ⟨s.tick, .completed (some 26)⟩ :: s.trace } ∧
    written t.pkt 0 26 ∧
    (∀ n, n < 208 → (pktByte t.pkt (n / 8)).getLsbD (7 - n % 8) = encBit s.cfg op arg unit n) ∧
    ∀ j, 25 < j → cellRead t.pkt j = cellRead s.pkt j

/-- R651: ENCODE with N = 1 writes RES = 0 and changes nothing else. -/
def Obligations.NullEncodeWritesOnlyRes : Prop :=
  ∀ (op arg : Byte) (unit : Half) (s : State), exec (.encode op arg unit true) s = .next { s with
    res := some 0, trace := ⟨s.tick, .completed (some 0)⟩ :: s.trace }

/-- R653: ENCODE's effect on PKT and RES depends on its operands and SYNC_PATTERN alone: two states that
share SYNC_PATTERN end with the same packet buffer and RES, and with N = 1 PKT is not touched. -/
def Obligations.EncodeIsPure : Prop :=
  ∀ (op arg : Byte) (unit : Half) (null : Bool) (s s' : State),
    s.pkt.wf → s'.pkt.wf → s.cfg.sync = s'.cfg.sync →
    ∃ t t', exec (.encode op arg unit null) s = .next t ∧ exec (.encode op arg unit null) s' = .next t' ∧
      t.res = t'.res ∧ (null = false → t.pkt = t'.pkt) ∧ (null = true → t.pkt = s.pkt ∧ t'.pkt = s'.pkt)

/-- R312: ENCODE's effect is that of LEADER; FRAME; FECENC; ILV; DIFF, except that it also writes RES. -/
def Obligations.EncodeEqualsStageSequence : Prop :=
  ∀ (op arg : Byte) (unit : Half) (s : State), ∃ t u,
    execAll [.leader, .frame op arg unit, .fecenc, .ilv, .diff] s = .next t ∧
    exec (.encode op arg unit false) s = .next u ∧ u = { t with res := some 26, trace := u.trace }

/-- R404: after ENCODE, PKT[0..6] = 0xFF each and PKT[7..11] is the line coding of SYNC_PATTERN, entered
with carried bit 0. -/
def Obligations.EncodedLeaderIsConstant : Prop :=
  ∀ (op arg : Byte) (unit : Half) (s : State), ∃ t, exec (.encode op arg unit false) s = .next t ∧
    (∀ i, i < 7 → cellRead t.pkt i = some 0xFF) ∧
    ∀ k, k < 5 → cellRead t.pkt (7 + k) = some (lineCode
      (if k = 0 then false else (s.cfg.sync.toList.getD (k - 1) 0).getLsbD 0) (s.cfg.sync.toList.getD k 0))

/-! ## XMIT and POSTID: the first step and the failures -/

/-- R700, R701, R711: XMIT's first step enters PRECHECK and queries the radio mode, whatever its length,
with a scripted or a free answer (log entry 3); TXEN is queried next only when the mode is ANALOG (`pos`:
log entry 6). -/
def Obligations.XmitQueriesModeFirst : Prop :=
  ∀ (len : Byte) (s : State),
    (∀ m ms, s.env.modeAns = m :: ms → exec (.xmit len) s = .next { s with
      phase := .precheck
      pos := if m = .analog then .txenQuery len else .fail
      trace := ⟨s.tick, .modeQuery m⟩ :: s.trace
      env := { s.env with modeAns := ms } }) ∧
    (s.env.modeAns = [] → exec (.xmit len) s = .next { s with
      phase := .precheck
      pos := if Config.freeMode s.env.draws = .analog then .txenQuery len else .fail
      trace := ⟨s.tick, .modeQuery (Config.freeMode s.env.draws)⟩ :: s.trace
      env := { s.env with draws := s.env.draws + 1 } })

/-- R712: POSTID is ENCODE PTTID_OP, PTTID_ARG, unit, N = 0, then XMIT 26: its first step is XMIT 26's, in
the state ENCODE leaves (one command, so the trace has no completion of the ENCODE). -/
def Obligations.PostidEncodesThenTransmits : Prop :=
  ∀ (unit : Half) (s : State), ∃ t u,
    exec (.encode s.cfg.pttidOp s.cfg.pttidArg unit false) s = .next t ∧ t.res = some 26 ∧
    exec (.xmit 26) { t with trace := s.trace } = .next u ∧ exec (.postid unit) s = .next u

/-- R701, R702, R703, R800: a wrong radio mode, a disabled transmitter, a length of 0 or above 26 end XMIT
with RES = 0, PHASE = IDLE and no port call but the queries already made; no fault bit is set. Stated for
scripted answers under the eager schedule; the failure is the last of two, three or three steps. -/
def Obligations.FailedPreconditionsLeaveHardwareAlone : Prop :=
  ∀ (len : Byte) (s : State), s.eager →
    (∀ m ms, s.env.modeAns = m :: ms → m ≠ .analog →
      ∃ t, exec (.xmit len) s = .next t ∧ run 1 t = .next { s with
        phase := .idle
        pos := .idle
        res := some 0
        trace := ⟨s.tick, .completed (some 0)⟩ :: ⟨s.tick, .modeQuery m⟩ :: s.trace
        env := { s.env with modeAns := ms } }) ∧
    (∀ ms es, s.env.modeAns = .analog :: ms → s.env.txenAns = false :: es →
      ∃ t, exec (.xmit len) s = .next t ∧ run 2 t = .next { s with
        phase := .idle
        pos := .idle
        res := some 0
        trace := ⟨s.tick, .completed (some 0)⟩ :: ⟨s.tick, .txenQuery false⟩ ::
          ⟨s.tick, .modeQuery .analog⟩ :: s.trace
        env := { s.env with modeAns := ms, txenAns := es } }) ∧
    (∀ ms es, s.env.modeAns = .analog :: ms → s.env.txenAns = true :: es →
      len.toNat = 0 ∨ 26 < len.toNat →
      ∃ t, exec (.xmit len) s = .next t ∧ run 2 t = .next { s with
        phase := .idle
        pos := .idle
        res := some 0
        trace := ⟨s.tick, .completed (some 0)⟩ :: ⟨s.tick, .txenQuery true⟩ ::
          ⟨s.tick, .modeQuery .analog⟩ :: s.trace
        env := { s.env with modeAns := ms, txenAns := es } })

/-- R702, R812, under the eager schedule with scripted answers (log entries 3, 4; PrecheckCallByPlace says it
for every schedule): XMIT of a packet with an unwritten byte raises UNINIT after the two queries, puts PHASE
back to IDLE and leaves RES as it was (a step of its own: log entry 25; without a completion event: log entry
8). -/
def Obligations.XmitOfUnwrittenPacketFaults : Prop :=
  ∀ (len : Byte) (s : State) (ms : List RadioMode) (es : List Bool),
    s.eager → s.env.modeAns = .analog :: ms → s.env.txenAns = true :: es →
    1 ≤ len.toNat → len.toNat ≤ 26 → ¬ written s.pkt 0 len.toNat →
    ∃ t, exec (.xmit len) s = .next t ∧ run 2 t = .next { s with
      phase := .idle
      pos := .idle
      fault := { s.fault with uninit := true }
      trace := ⟨s.tick, .txenQuery true⟩ :: ⟨s.tick, .modeQuery .analog⟩ :: s.trace
      env := { s.env with modeAns := ms, txenAns := es } }

/-- R701, R702, R703, R812, under any schedule and with any answers, place by place (`pos`: log entry 6):
TXEN.query; FAIL; the packet checks that fail; the packet check that raises UNINIT (a step of its own: log
entry 25; without a completion event: log entry 8). -/
def Obligations.PrecheckCallByPlace : Prop :=
  ∀ (len : Byte) (s s0 : State), s.sequencerTurn s0 →
    (s.pos = .txenQuery len → step s = .next { s0 with
      pos := if (drawTxen s0.env).1 then .cssGet len else .fail
      trace := ⟨s.tick, .txenQuery (drawTxen s0.env).1⟩ :: s.trace
      env := (drawTxen s0.env).2 }) ∧
    (s.pos = .fail ∨ (s.pos = .cssGet len ∧ (len.toNat = 0 ∨ 26 < len.toNat)) → step s = .next { s0 with
      phase := .idle
      pos := .idle
      res := some 0
      trace := ⟨s.tick, .completed (some 0)⟩ :: s.trace }) ∧
    (s.pos = .cssGet len → 1 ≤ len.toNat → len.toNat ≤ 26 → ¬ written s.pkt 0 len.toNat →
      step s = .next { s0 with
        phase := .idle
        pos := .idle
        fault := { s.fault with uninit := true } })

/-! ## The transmitter's phases -/

/-- R705, R711, under any schedule and with any answers, place by place: the call each place makes, what it
saves, and the place that comes next, so that the calls come in R705's order. `pos`, and SAV_FILT written
with the step after the read's: log entry 6. -/
def Obligations.ArmingCallByPlace : Prop :=
  ∀ s s0 : State, s.sequencerTurn s0 →
    (∀ len, s.pos = .cssGet len → 1 ≤ len.toNat → len.toNat ≤ 26 → written s.pkt 0 len.toNat →
      ∃ t, step s = .next t ∧ t = { s0 with
        phase := .armed
        pos := .cssOff
        savCss := some (drawCss s0.env).1
        sym := t.sym
        nsym := 8 * len.toNat
        trace := ⟨s.tick, .cssGet (drawCss s0.env).1⟩ :: s.trace
        env := (drawCss s0.env).2 }) ∧
    (s.pos = .cssOff → step s = .next { s0 with
      pos := .filterRead, trace := ⟨s.tick, .cssSet .none⟩ :: s.trace }) ∧
    (s.pos = .filterRead → ∃ ok v, (drawFeRead s0.env).1 = (ok, v) ∧ step s = .next { s0 with
      pos := .filterOff ok v
      trace := ⟨s.tick, .feRead s.cfg.filterRegIndex ok v⟩ :: s.trace
      env := (drawFeRead s0.env).2 }) ∧
    (∀ ok v, s.pos = .filterOff ok v → step s = .next { s0 with
      pos := .firstTone
      savFiltOk := some ok
      savFilt := if ok then some v else s.savFilt
      trace := ⟨s.tick, .feWrite s.cfg.filterRegIndex s.cfg.filterOffValue (drawFeWrite s0.env).1⟩ :: s.trace
      env := (drawFeWrite s0.env).2 }) ∧
    (∀ b, s.pos = .firstTone → s.sym[0]? = some b → step s = .next { s0 with
      pos := .routeTone
      cur := some b
      trace := ⟨s.tick, .toneSet (if b then s.cfg.toneMark else s.cfg.toneSpace)⟩ :: s.trace }) ∧
    (s.pos = .routeTone → step s = .next { s0 with
      pos := .ampQuery, trace := ⟨s.tick, .routeSelect .tone⟩ :: s.trace }) ∧
    (s.pos = .ampQuery → step s = .next { s0 with
      pos := .ampEnable
      savAmpOn := some (drawAmp s0.env).1
      trace := ⟨s.tick, .ampQuery s.cfg.ampMode (drawAmp s0.env).1⟩ :: s.trace
      env := (drawAmp s0.env).2 }) ∧
    (s.pos = .ampEnable → step s = .next { s0 with
      pos := .mute, trace := ⟨s.tick, .ampEnable s.cfg.ampMode⟩ :: s.trace }) ∧
    (s.pos = .mute → step s = .next { s0 with
      pos := .settle, trace := ⟨s.tick, .muteDrive .asserted⟩ :: s.trace })

/-- R704: with every precondition met, symbol n is bit 7 - n mod 8 of PKT[n div 8], for 8 L symbols; SYM's
other entries stay. -/
def Obligations.BitstreamIsMsbFirst : Prop :=
  ∀ (len : Byte) (s s0 : State),
    s.pos = .cssGet len → s.sequencerTurn s0 → 1 ≤ len.toNat → len.toNat ≤ 26 →
    written s.pkt 0 len.toNat →
    ∃ t, step s = .next t ∧ t.nsym = 8 * len.toNat ∧
      (∀ n, n < 8 * len.toNat → t.sym[n]? = some ((pktByte s.pkt (n / 8)).getLsbD (7 - n % 8))) ∧
      ∀ n, 8 * len.toNat ≤ n → t.sym[n]? = s.sym[n]?

/-- R705, under the eager schedule with scripted answers (log entries 3, 4; ArmingCallByPlace says it for every
schedule): the nine arming calls, in order, with what they save: CSS.set(NONE) always, the filter write even
after a failed read, AMP.enable even when the amplifier was on. `t.sym` is the bitstream and `t.env` has
lost the answers used. -/
def Obligations.ArmingCallsInOrder : Prop :=
  ∀ (len : Byte) (s : State) (c : CssValue) (cs : List CssValue) (ok : Bool) (v : Half)
    (fs : List (Bool × Half)) (w : Bool) (ws : List Bool) (on : Bool) (as : List Bool),
    s.pos = .cssGet len → s.eager → 1 ≤ len.toNat → len.toNat ≤ 26 → written s.pkt 0 len.toNat →
    s.env.cssAns = c :: cs → s.env.feReadAns = (ok, v) :: fs → s.env.feWriteAns = w :: ws →
    s.env.ampAns = on :: as →
    ∃ t, run 9 s = .next t ∧
      t = { s with
        phase := .armed
        pos := .settle
        savCss := some c
        savFiltOk := some ok
        savFilt := if ok then some v else s.savFilt
        savAmpOn := some on
        sym := t.sym
        nsym := 8 * len.toNat
        cur := some ((pktByte s.pkt 0).getLsbD 7)
        env := { s.env with cssAns := cs, feReadAns := fs, feWriteAns := ws, ampAns := as }
        trace := eventsAt s.tick [.muteDrive .asserted, .ampEnable s.cfg.ampMode, .ampQuery s.cfg.ampMode on,
            .routeSelect .tone,
            .toneSet (if (pktByte s.pkt 0).getLsbD 7 then s.cfg.toneMark else s.cfg.toneSpace),
            .feWrite s.cfg.filterRegIndex s.cfg.filterOffValue w, .feRead s.cfg.filterRegIndex ok v,
            .cssSet .none, .cssGet c] ++ s.trace }

/-- R706: the settle target is LEAD_TICKS after the one TICK read. The record of a stall is the model's own
(log entry 23). -/
def Obligations.SettleTargetIsLeadAfterTick : Prop :=
  ∀ s s0 : State, s.pos = .settle → s.sequencerTurn s0 →
    step s = .next { s0 with
      tb := some ((s.tick + s.cfg.leadTicks) % 2 ^ s.cfg.tickBits)
      pos := .firstSymbol
      stalled := false }

/-- R18, R706, R707: while the settle target, the write-ahead point or the boundary is not reached, a
sequencer move does nothing, and only the tick counter goes on (under the eager schedule it steps). A poll
that changes nothing but the script: log entry 7. -/
def Obligations.WaitHoldsTheSequencer : Prop :=
  ∀ (s : State) (target : Nat), s.tb = some target →
    ((s.pos = .firstSymbol ∨ s.pos = .boundary) ∧ reached s.cfg s.tick target = false) ∨
    (s.pos = .writeAhead ∧ reached s.cfg s.tick (tickSub s.cfg target s.cfg.leadTicks) = false) →
    (∀ s0, s.sequencerTurn s0 → ¬ s.eager → step s = .next s0) ∧
    (s.eager → step s = .next { s with tick := (s.tick + 1) % 2 ^ s.cfg.tickBits })

/-- R706, R707, R708, R713: a poll that finds the settle target reached begins symbol 0, and one that finds
the end of a symbol before the last reached begins the next; TB is that symbol's end. That the poll is a
silent move which writes PHASE, SIDX, PIDX and TB: log entries 6, 7. -/
def Obligations.SymbolBeginsAtPassedWait : Prop :=
  ∀ (s s0 : State) (start : Nat),
    s.sequencerTurn s0 → s.tb = some start → reached s.cfg s.tick start = true →
    (s.pos = .firstSymbol → step s = .next { s0 with
      phase := .transmitting
      pos := .writeAhead
      sidx := 0
      pidx := 0
      tb := some ((start + 8) % 2 ^ s.cfg.tickBits) }) ∧
    (s.pos = .boundary → s.sidx + 1 ≠ s.nsym → s.pidx.val = s.sidx % 3 → step s = .next { s0 with
      pos := .writeAhead
      sidx := s.sidx + 1
      pidx := s.pidx + 1
      tb := some ((start + DUR.getD ((s.sidx + 1) % 3) 0) % 2 ^ s.cfg.tickBits) })

/-- R706, R707, R708, R715, R813, with R915 by log entry 23: once the settle target and the write-ahead point
of symbol 0 are reached, two sequencer moves in a row (log entry 7) enter TRANSMITTING at symbol 0 and make
its write-ahead step: TB is its end, LATE is set when that is already reached (or a wait was stalled), and the
tone is switched exactly when symbol 1 exists and differs. -/
def Obligations.FirstWriteAheadStepEffect : Prop :=
  ∀ (s : State) (rest : List Move) (start target : Nat),
    s.Inv → s.pos = .firstSymbol → s.env.moves = .sequencer :: .sequencer :: rest → s.tb = some start →
    target = (start + 8) % 2 ^ s.cfg.tickBits →
    reached s.cfg s.tick start = true →
    reached s.cfg s.tick (tickSub s.cfg target s.cfg.leadTicks) = true →
    ∃ t, run 2 s = .next t ∧
      t = { s with
        phase := .transmitting
        pos := .boundary
        sidx := 0
        pidx := 0
        tb := some target
        stalled := false
        fault := { s.fault with late := s.fault.late || s.stalled || reached s.cfg s.tick target }
        cur := t.cur
        trace := t.trace
        env := { s.env with moves := rest } } ∧
      (∀ b, 1 < s.nsym → s.sym[1]? = some b → s.cur ≠ some b →
        t.cur = some b ∧
        t.trace = ⟨s.tick, .toneSet (if b then s.cfg.toneMark else s.cfg.toneSpace)⟩ :: s.trace) ∧
      ((s.nsym = 1 ∨ s.sym[1]? = s.cur) → t.cur = s.cur ∧ t.trace = s.trace)

/-- R707, R715, R717, R813, with R915 by log entry 23: the write-ahead step of any symbol, made at a poll that
finds its write-ahead point reached, whatever a wait passed before would read now: LATE is set when the
symbol's end in TB is already reached (or a wait was stalled), and the tone is switched exactly when a next
symbol exists and differs. -/
def Obligations.WriteAheadStepEffect : Prop :=
  ∀ (s s0 : State) (target : Nat),
    s.Inv → s.pos = .writeAhead → s.sequencerTurn s0 → s.tb = some target →
    reached s.cfg s.tick (tickSub s.cfg target s.cfg.leadTicks) = true →
    ∃ t, step s = .next t ∧
      t = { s0 with
        pos := .boundary
        stalled := false
        fault := { s.fault with late := s.fault.late || s.stalled || reached s.cfg s.tick target }
        cur := t.cur
        trace := t.trace } ∧
      (∀ b, s.sidx + 1 < s.nsym → s.sym[s.sidx + 1]? = some b → s.cur ≠ some b →
        t.cur = some b ∧
        t.trace = ⟨s.tick, .toneSet (if b then s.cfg.toneMark else s.cfg.toneSpace)⟩ :: s.trace) ∧
      ((s.sidx + 1 = s.nsym ∨ s.sym[s.sidx + 1]? = s.cur) → t.cur = s.cur ∧ t.trace = s.trace)

/-- R716: a write-ahead step that leaves LATE clear runs at a tick t with B_n - LEAD_TICKS ≤ t < B_n and t >
B_{n-1} (distances modulo 2^TICK_BITS; `target` is B_n and B_{n-1} is the symbol's duration before it). -/
def Obligations.SwitchStaysInsideItsSymbol : Prop :=
  ∀ (s t : State) (target start : Nat),
    s.Inv → s.pos = .writeAhead → s.tb = some target →
    start = tickSub s.cfg target (DUR.getD (s.sidx % 3) 0) →
    step s = .next t → t.pos = .boundary → t.fault.late = false →
    1 ≤ tickSub s.cfg target s.tick ∧ tickSub s.cfg target s.tick ≤ s.cfg.leadTicks ∧
      1 ≤ tickSub s.cfg s.tick start ∧
      tickSub s.cfg s.tick start < DUR.getD (s.sidx % 3) 0

/-- R915, U20 (how the model remembers a stall: log entry 23): a tick that takes a wait 2^(TICK_BITS-1) ticks
past its target is remembered, and the next write-ahead step sets LATE; before it the wait holds or passes to
the write-ahead wait, and only reset or, after the last symbol, the restore ends the transmission's waits. -/
def Obligations.StallSetsLateAtNextCheck : Prop :=
  ∀ (s t : State) (tb target : Nat),
    s.Inv → s.tb = some tb → step s = .next t →
    ((s.pos = .firstSymbol ∨ s.pos = .boundary) ∧ target = tb) ∨
      (s.pos = .writeAhead ∧ target = tickSub s.cfg tb s.cfg.leadTicks) →
    (∀ rest, s.env.moves = .tick :: rest → reached s.cfg s.tick target = true →
      reached s.cfg ((s.tick + 1) % 2 ^ s.cfg.tickBits) target = false → t.stalled = true) ∧
    (s.stalled = true → ¬ s.resetNext →
      (t.stalled = true ∧ t.pos = s.pos ∧ t.tb = s.tb) ∨
        (s.pos ≠ .writeAhead ∧ t.pos = .writeAhead ∧ t.stalled = true) ∨
        (s.pos = .writeAhead ∧ t.pos = .boundary ∧ t.fault.late = true) ∨
        (s.pos = .boundary ∧ s.sidx + 1 = s.nsym ∧ t.pos = .routeMic))

/-- R18: reached(T) is the sign of the TICK_BITS-bit difference TICK - T. -/
def Obligations.ReachedIsSignedDifference : Prop :=
  ∀ (p : Params) (tick target : Nat),
    reached p tick target = true ↔
      0 ≤ (BitVec.ofNat p.tickBits tick - BitVec.ofNat p.tickBits target).toInt

/-- R717: d ticks after T, reached(T) holds exactly when d is below 2^(TICK_BITS-1), modulo 2^TICK_BITS. -/
def Obligations.ReachedForHalfAPeriod : Prop :=
  ∀ (p : Params) (target d : Nat), d < 2 ^ p.tickBits →
    (reached p ((target + d) % 2 ^ p.tickBits) target = true ↔ d < 2 ^ (p.tickBits - 1))

/-- R713: the symbol durations add up to c(n). -/
def Obligations.SymbolEndsAddUp : Prop :=
  ∀ n : Nat, ((List.range (n + 1)).map fun m => DUR.getD (m % 3) 0).sum = symbolEnd n

/-- R709, R710, under the eager schedule with a scripted write status (log entries 3, 4; RestoreCallByPlace says
it for every schedule): after the last symbol's boundary, the restore calls in order (AMP.disable exactly when the
amplifier was off; SAV_FILT or the safe default), then IDLE with RES = 1. -/
def Obligations.RestoreCallsInOrder : Prop :=
  ∀ (s : State) (start : Nat) (c : CssValue) (ok : Bool) (v : Half) (on : Bool) (w : Bool) (ws : List Bool),
    s.pos = .boundary → s.eager → s.tb = some start → reached s.cfg s.tick start = true →
    s.sidx + 1 = s.nsym → s.savCss = some c → s.savFiltOk = some ok → (ok = true → s.savFilt = some v) →
    s.savAmpOn = some on → s.env.feWriteAns = w :: ws →
    run (if on then 6 else 7) s = .next { s with
      phase := .idle
      pos := .idle
      sidx := s.nsym
      pidx := s.pidx + 1
      res := some 1
      env := { s.env with feWriteAns := ws }
      trace := eventsAt s.tick ([.completed (some 1), .muteDrive .deasserted] ++
          (if on then [] else [.ampDisable s.cfg.ampMode]) ++
          [.feWrite s.cfg.filterRegIndex (if ok then v else s.cfg.filterSafeDefault) w, .cssSet c,
            .routeSelect .mic, .toneOff]) ++ s.trace }

/-- R709, R710, R711, under any schedule and with any write status, place by place: the call each place
makes and the place that comes next, so that the calls come in R709's order; then completion with RES = 1.
`pos`: log entry 6. -/
def Obligations.RestoreCallByPlace : Prop :=
  ∀ s s0 : State, s.sequencerTurn s0 →
    (∀ start, s.pos = .boundary → s.tb = some start → reached s.cfg s.tick start = true →
      s.sidx + 1 = s.nsym → step s = .next { s0 with
        phase := .restoring
        pos := .routeMic
        sidx := s.nsym
        pidx := s.pidx + 1
        trace := ⟨s.tick, .toneOff⟩ :: s.trace }) ∧
    (s.pos = .routeMic → step s = .next { s0 with
      pos := .cssRestore, trace := ⟨s.tick, .routeSelect .mic⟩ :: s.trace }) ∧
    (∀ c, s.pos = .cssRestore → s.savCss = some c → step s = .next { s0 with
      pos := .filterRestore, trace := ⟨s.tick, .cssSet c⟩ :: s.trace }) ∧
    (∀ ok v, s.pos = .filterRestore → s.savFiltOk = some ok → (ok = true → s.savFilt = some v) →
      step s = .next { s0 with
        pos := .ampRestore
        trace := ⟨s.tick, .feWrite s.cfg.filterRegIndex (if ok then v else s.cfg.filterSafeDefault)
          (drawFeWrite s0.env).1⟩ :: s.trace
        env := (drawFeWrite s0.env).2 }) ∧
    (s.pos = .ampRestore → s.savAmpOn = some false → step s = .next { s0 with
      pos := .unmute, trace := ⟨s.tick, .ampDisable s.cfg.ampMode⟩ :: s.trace }) ∧
    (s.pos = .unmute ∨ (s.pos = .ampRestore ∧ s.savAmpOn = some true) → step s = .next { s0 with
      pos := .finish, trace := ⟨s.tick, .muteDrive .deasserted⟩ :: s.trace }) ∧
    (s.pos = .finish → step s = .next { s0 with
      phase := .idle
      pos := .idle
      res := some 1
      trace := ⟨s.tick, .completed (some 1)⟩ :: s.trace })

/-! ## Whole-machine rules -/

/-- The invariant holds at reset. -/
def Obligations.ResetMeetsInvariant : Prop := State.reset.Inv

/-- Every step of every agent keeps the invariant: PKT's canonical form, tick values below 2^TICK_BITS,
PHASE in line with the sequence, the ranges of NSYM, SIDX and PIDX, and that a transmission has written each
register before it reads it (R12, R115 to R118). -/
def Obligations.StepKeepsInvariant : Prop := ∀ s t : State, s.Inv → step s = .next t → t.Inv

/-- R718, R705: from the save to the restore, the saved registers hold what this transmission's queries
answered. -/
def Obligations.StepKeepsSavedValues : Prop :=
  ∀ s t : State, s.SavedFromQueries → step s = .next t → t.SavedFromQueries

/-- R718: the restoring calls carry the values the queries of the same transmission returned. -/
def Obligations.RestoreWritesQueriedValues : Prop :=
  ∀ s s0 : State, s.SavedFromQueries → s.sequencerTurn s0 →
    (s.pos = .cssRestore → ∃ t c, step s = .next t ∧ lastCss s.trace = some c ∧
      t.trace = ⟨s.tick, .cssSet c⟩ :: s.trace) ∧
    (s.pos = .filterRestore → ∃ t ok v w, step s = .next t ∧ lastFeRead s.trace = some (ok, v) ∧
      t.trace = ⟨s.tick, .feWrite s.cfg.filterRegIndex (if ok then v else s.cfg.filterSafeDefault) w⟩ ::
        s.trace) ∧
    (s.pos = .ampRestore → ∃ t on, step s = .next t ∧ lastAmp s.trace = some on ∧
      t.trace = ⟨s.tick, if on then .muteDrive .deasserted else .ampDisable s.cfg.ampMode⟩ :: s.trace)

/-- R802, R710: once armed, each sequencer step goes forward in the sequence, or to the next symbol, or
completes with RES = 1; none raises ILLEGAL or UNINIT. -/
def Obligations.ArmedTransmissionGoesForward : Prop :=
  ∀ (s : State) (o : Out), s.Inv → 4 ≤ s.pos.rank → seqStep s = some o → ∃ t, o = .next t ∧
    t.fault.illegal = s.fault.illegal ∧ t.fault.uninit = s.fault.uninit ∧
    (s.pos.rank < t.pos.rank ∨ (s.pos = .boundary ∧ t.pos = .writeAhead ∧ t.sidx = s.sidx + 1) ∨
      (s.pos = .finish ∧ t.pos = .idle ∧ t.res = some 1))

/-- R814: no step but reset clears a fault bit, and reset clears all three. -/
def Obligations.FaultBitsAreSticky : Prop :=
  ∀ s t : State, step s = .next t →
    (¬ s.resetNext → (s.fault.illegal = true → t.fault.illegal = true) ∧
      (s.fault.uninit = true → t.fault.uninit = true) ∧ (s.fault.late = true → t.fault.late = true)) ∧
    (s.resetNext → t.faultFree)

/-- R700: XMIT does not write PKT, CRC, CSR or DPREV, in its first step or any later one, nor the
configuration. -/
def Obligations.TransmissionLeavesEncoderAlone : Prop :=
  (∀ (len : Byte) (s t : State), exec (.xmit len) s = .next t →
    t.pkt = s.pkt ∧ t.crc = s.crc ∧ t.csr = s.csr ∧ t.dprev = s.dprev ∧ t.cfg = s.cfg) ∧
  ∀ s t : State, s.pos ≠ .idle → ¬ s.resetNext → step s = .next t →
    t.pkt = s.pkt ∧ t.crc = s.crc ∧ t.csr = s.csr ∧ t.dprev = s.dprev ∧ t.cfg = s.cfg

/-- R151: a tick-counter step adds 1 to TICK modulo 2^TICK_BITS and can come at any time; no other move
writes TICK, and no command does. Beside TICK the step writes only the model's own record of a stall, and
that only in a wait (log entry 23). -/
def Obligations.OnlyTheTickCounterMovesTick : Prop :=
  (∀ (s : State) (rest : List Move), ∃ t,
    step { s with env := { s.env with moves := .tick :: rest } } = .next t ∧
    t = { s with
      tick := (s.tick + 1) % 2 ^ s.cfg.tickBits
      stalled := t.stalled
      env := { s.env with moves := rest } } ∧
    (s.stalled = true → t.stalled = true) ∧
    (s.pos ≠ .firstSymbol → s.pos ≠ .writeAhead → s.pos ≠ .boundary → t.stalled = s.stalled)) ∧
  (∀ (m : Move) (s t : State), m ≠ .tick → moveStep m s = .next t → t.tick = s.tick) ∧
  ∀ (i : Instr) (s t : State), exec i s = .next t → t.tick = s.tick

/-- R900, R901, R161: reset, at any moment, gives every block register its reset value, makes no port call,
and leaves TICK alone. That the trace and the configuration stay, and that the sequencer's place and the
record of a stall are cleared, is the model's (log entries 1, 6, 12, 23). -/
def Obligations.ResetSetsEveryRegister : Prop :=
  ∀ (s : State) (rest : List Move), s.env.moves = .reset :: rest → ∃ t, step s = .next t ∧
    t.crc = 0x0000 ∧ t.csr = 0x00 ∧ t.dprev = false ∧ (∀ i, cellRead t.pkt i = none) ∧ t.phase = .idle ∧
    t.savCss = none ∧ t.savFilt = none ∧ t.savFiltOk = none ∧ t.savAmpOn = none ∧
    (∀ n : Nat, t.sym[n]? = none) ∧ t.nsym = 0 ∧ t.sidx = 0 ∧ t.pidx = 0 ∧ t.cur = none ∧ t.tb = none ∧
    t.stalled = false ∧ t.res = none ∧ t.faultFree ∧ t.pos = .idle ∧ t.tick = s.tick ∧ t.trace = s.trace ∧ t.cfg = s.cfg

/-- R812, R160: a host read of RES before any result-writing command has completed raises UNINIT and changes
nothing else; otherwise the read changes nothing. -/
def Obligations.HostReadOfEmptyResFaults : Prop :=
  ∀ (s s0 : State) (hs : List HostAct), s.offers .readRes hs → s.sequencerTurn s0 →
    (s.res = none → step s = .next { s0 with
      fault := { s.fault with uninit := true }, env := { s0.env with host := hs } }) ∧
    (∀ r, s.res = some r → step s = .next { s0 with env := { s0.env with host := hs } })

/-! ## Complete transmissions -/

/-- R700, R710, R713, R911: under the eager schedule (log entry 4), XMIT of a written packet, with the radio in analog
mode and transmission enabled, runs to completion: RES = 1, IDLE, no fault bit set, the encoder's state
untouched, and TICK at the settle target plus c(8 L - 1). -/
def Obligations.XmitCompletesOnSchedule : Prop :=
  ∀ (len : Byte) (s : State) (ms : List RadioMode) (es : List Bool),
    s.eager → s.env.modeAns = .analog :: ms → s.env.txenAns = true :: es →
    1 ≤ len.toNat → len.toNat ≤ 26 → written s.pkt 0 len.toNat →
    ∃ t n u, exec (.xmit len) s = .next t ∧ run n t = .next u ∧
      u.phase = .idle ∧ u.pos = .idle ∧ u.res = some 1 ∧ u.fault = s.fault ∧
      u.pkt = s.pkt ∧ u.crc = s.crc ∧ u.csr = s.csr ∧ u.dprev = s.dprev ∧ u.cfg = s.cfg ∧
      u.env.host = s.env.host ∧ u.nsym = 8 * len.toNat ∧ u.sidx = 8 * len.toNat ∧
      u.tick = (s.tick + s.cfg.leadTicks + symbolEnd (8 * len.toNat - 1)) % 2 ^ s.cfg.tickBits

/-- R714, for the eager run (log entry 4): such a transmission makes exactly 2 + T tone-generator calls, T the changes between neighbouring
symbols. -/
def Obligations.XmitToneCallsAreTwoPlusChanges : Prop :=
  ∀ (len : Byte) (s : State) (ms : List RadioMode) (es : List Bool),
    s.eager → s.env.modeAns = .analog :: ms → s.env.txenAns = true :: es →
    1 ≤ len.toNat → len.toNat ≤ 26 → written s.pkt 0 len.toNat →
    ∃ t n u, exec (.xmit len) s = .next t ∧ run n t = .next u ∧ u.pos = .idle ∧ u.res = some 1 ∧
      toneCalls u.trace = toneCalls s.trace + 2 +
        changes ((List.range (8 * len.toNat)).map fun k => (pktByte s.pkt (k / 8)).getLsbD (7 - k % 8))

/-- R712: under the eager schedule (log entry 4) POSTID, with the radio in analog mode and transmission enabled, and
whatever PKT held, leaves enc(PTTID_OP, PTTID_ARG, unit) in PKT and completes with RES = 1 and no fault bit
set. -/
def Obligations.PostidCompletesOnSchedule : Prop :=
  ∀ (unit : Half) (s : State) (ms : List RadioMode) (es : List Bool),
    s.eager → s.env.modeAns = .analog :: ms → s.env.txenAns = true :: es →
    ∃ t n u, exec (.postid unit) s = .next t ∧ run n t = .next u ∧
      u.phase = .idle ∧ u.pos = .idle ∧ u.res = some 1 ∧ u.fault = s.fault ∧ written u.pkt 0 26 ∧
      (∀ k, k < 208 → (pktByte u.pkt (k / 8)).getLsbD (7 - k % 8) =
        encBit s.cfg s.cfg.pttidOp s.cfg.pttidArg unit k) ∧
      u.tick = (s.tick + s.cfg.leadTicks + 1733) % 2 ^ s.cfg.tickBits
end

