-- ==== Sys2Proof/Laws/Memory.lean ====
section
/-! SUPPORT. The packet buffer's laws (20_memory.md R202): a read after a write, what a write leaves
alone, and that every write keeps the canonical form. -/

namespace Sys2Proof.Laws

open Sys2Proof.Machine

/-- A read of a buffer whose first listed index is i. -/
@[simp] theorem cellRead_cons (c : Host.Cell) (m : Memory) (i : Nat) :
    cellRead (c :: m) i = if c.1 = i then some c.2 else cellRead m i := rfl

@[simp] theorem cellRead_nil (i : Nat) : cellRead [] i = none := rfl

/-- A read after a write: the value written at that index, the earlier value elsewhere. -/
@[simp] theorem cellRead_cellWrite (m : Memory) (i j : Nat) (v : Byte) :
    cellRead (cellWrite m i v) j = if j = i then some v else cellRead m j := by
  induction m with
  | nil => simp [cellWrite, eq_comm]
  | cons c m ih =>
    unfold cellWrite
    split
    · simp [eq_comm]
    · split
      · subst_vars
        by_cases h : j = c.1 <;> simp [h, eq_comm]
      · simp only [cellRead_cons, ih]
        by_cases h : c.1 = j <;> by_cases h' : j = i <;> simp_all

/-- What a write lists: the new cell and earlier ones. -/
theorem mem_cellWrite {m : Memory} {i : Nat} {v : Byte} {c : Host.Cell} (h : c ∈ cellWrite m i v) :
    c = (i, v) ∨ c ∈ m := by
  induction m with
  | nil => simpa [cellWrite] using h
  | cons d m ih =>
    unfold cellWrite at h
    split at h
    · simpa using h
    · split at h
      · simp only [List.mem_cons] at h ⊢
        tauto
      · simp only [List.mem_cons] at h ⊢
        rcases h with h | h
        · exact .inr (.inl h)
        · rcases ih h with h | h <;> simp [h]

/-- A write at an index of the buffer keeps the canonical form. -/
theorem wf_cellWrite {m : Memory} (h : m.wf) {i : Nat} (hi : i ≤ 25) (v : Byte) :
    Memory.wf (cellWrite m i v) := by
  refine ⟨?_, fun c hc => ?_⟩
  · have hs := h.1
    clear h
    induction m with
    | nil => simp [cellWrite]
    | cons c m ih =>
      rw [List.pairwise_cons] at hs
      unfold cellWrite
      split
      · rename_i hlt
        refine List.pairwise_cons.2 ⟨fun d hd => ?_, List.pairwise_cons.2 hs⟩
        rcases List.mem_cons.1 hd with rfl | hd
        · exact hlt
        · exact Nat.lt_trans hlt (hs.1 d hd)
      · split
        · rename_i heq
          exact List.pairwise_cons.2 ⟨fun d hd => heq ▸ hs.1 d hd, hs.2⟩
        · refine List.pairwise_cons.2 ⟨fun d hd => ?_, ih hs.2⟩
          rcases mem_cellWrite hd with rfl | hd
          · show c.1 < i
            omega
          · exact hs.1 d hd
  · rcases mem_cellWrite hc with rfl | hc
    · exact hi
    · exact h.2 c hc

/-- Writing a run of bytes: each index of the run holds its byte, every other index is as before. -/
theorem cellRead_writeBytes (m : Memory) (i : Nat) (bs : List Byte) (j : Nat) :
    cellRead (writeBytes m i bs) j =
      if i ≤ j ∧ j < i + bs.length then bs[j - i]? else cellRead m j := by
  induction bs generalizing m i with
  | nil => simp [writeBytes]
  | cons b bs ih =>
    rw [writeBytes, ih, cellRead_cellWrite]
    by_cases h : j = i
    · subst h
      simp
    · by_cases h' : i ≤ j ∧ j < i + (bs.length + 1)
      · obtain ⟨k, rfl⟩ : ∃ k, j = i + 1 + k := ⟨j - (i + 1), by omega⟩
        have e : i + 1 + k - i = k + 1 := by omega
        have e' : i + 1 + k - (i + 1) = k := by omega
        rw [if_pos (by omega), if_pos (by simpa using h'), e, e']
        simp
      · rw [if_neg (by omega), if_neg h, if_neg (by simpa using h')]

/-- Writing a run inside the buffer keeps the canonical form. -/
theorem wf_writeBytes {m : Memory} (h : m.wf) {i : Nat} {bs : List Byte} (hi : i + bs.length ≤ 26) :
    Memory.wf (writeBytes m i bs) := by
  induction bs generalizing m i with
  | nil => exact h
  | cons b bs ih =>
    simp only [List.length_cons] at hi
    exact ih (wf_cellWrite h (by omega) b) (by omega)

/-- What a run of reads answers: the bytes, one for each index, when every index holds a value. -/
theorem readBytes_eq_some {m : Memory} {i n : Nat} {bs : List Byte} :
    readBytes m i n = some bs ↔ bs.length = n ∧ ∀ k, k < n → cellRead m (i + k) = bs[k]? := by
  induction n generalizing i bs with
  | zero => cases bs <;> simp [readBytes]
  | succ n ih =>
    rw [readBytes]
    constructor
    · intro h
      split at h
      · rename_i b bs' hb hbs
        obtain ⟨hl, hk⟩ := ih.1 hbs
        obtain rfl := Option.some.inj h
        refine ⟨by simp [hl], fun k hk' => ?_⟩
        cases k with
        | zero => simpa using hb
        | succ k => simpa [Nat.add_assoc, Nat.add_comm 1 k] using hk k (by omega)
      · simp at h
    · rintro ⟨hl, hk⟩
      cases bs with
      | nil => simp at hl
      | cons b bs =>
        have h0 := hk 0 (by omega)
        have hr : readBytes m (i + 1) n = some bs := by
          refine ih.2 ⟨by simpa using hl, fun k hk' => ?_⟩
          simpa [Nat.add_assoc, Nat.add_comm 1 k] using hk (k + 1) (by omega)
        rw [hr]
        simp only [Nat.add_zero, List.getElem?_cons_zero] at h0
        rw [h0]

/-- A run of reads fails exactly when some index of the run holds no value. -/
theorem readBytes_eq_none {m : Memory} {i n : Nat} :
    readBytes m i n = none ↔ ∃ k, k < n ∧ cellRead m (i + k) = none := by
  induction n generalizing i with
  | zero => simp [readBytes]
  | succ n ih =>
    rw [readBytes]
    cases h : cellRead m i with
    | none => simp only [true_iff]; exact ⟨0, by omega, by simpa using h⟩
    | some b =>
      cases h' : readBytes m (i + 1) n with
      | none =>
        simp only [true_iff]
        obtain ⟨k, hk, hk'⟩ := ih.1 h'
        exact ⟨k + 1, by omega, by rwa [Nat.add_comm k 1, ← Nat.add_assoc]⟩
      | some bs =>
        simp only [reduceCtorEq, false_iff, not_exists, not_and]
        rintro (_ | k) hk hn
        · rw [Nat.add_zero, h] at hn
          cases hn
        · have : readBytes m (i + 1) n = none :=
            ih.2 ⟨k, by omega, by rwa [Nat.add_assoc, Nat.add_comm 1 k]⟩
          rw [h'] at this
          cases this

/-- Reading back a run just written. -/
theorem readBytes_writeBytes (m : Memory) (i : Nat) (bs : List Byte) :
    readBytes (writeBytes m i bs) i bs.length = some bs := by
  refine readBytes_eq_some.2 ⟨rfl, fun k hk => ?_⟩
  rw [cellRead_writeBytes, if_pos ⟨by omega, by omega⟩, Nat.add_sub_cancel_left]

/-- The cell of a canonical buffer at an index it holds. -/
theorem cellRead_of_mem {m : Memory} (h : m.Pairwise (fun c d => c.1 < d.1)) {c : Host.Cell} (hc : c ∈ m) :
    cellRead m c.1 = some c.2 := by
  induction m with
  | nil => cases hc
  | cons d m ih =>
    rw [List.pairwise_cons] at h
    rcases List.mem_cons.1 hc with rfl | hc
    · simp
    · have := h.1 c hc
      rw [cellRead_cons, if_neg (by omega)]
      exact ih h.2 hc

/-- What a buffer reads as, it lists. -/
theorem mem_of_cellRead {m : Memory} {i : Nat} {v : Byte} (h : cellRead m i = some v) : (i, v) ∈ m := by
  induction m with
  | nil => cases h
  | cons c m ih =>
    rw [cellRead_cons] at h
    split at h
    · rename_i hi
      obtain rfl := hi
      obtain rfl := Option.some.inj h
      exact List.mem_cons_self
    · exact List.mem_cons_of_mem _ (ih h)

/-- Canonical buffers that read alike are equal data. -/
theorem eq_of_cellRead_eq {m m' : Memory} (h : m.wf) (h' : m'.wf)
    (hr : ∀ i, cellRead m i = cellRead m' i) : m = m' := by
  have hmem : ∀ c : Host.Cell, c ∈ m ↔ c ∈ m' := fun c =>
    ⟨fun hc => mem_of_cellRead ((hr c.1).symm.trans (cellRead_of_mem h.1 hc)),
     fun hc => mem_of_cellRead ((hr c.1).trans (cellRead_of_mem h'.1 hc))⟩
  have hnd : ∀ {m : Memory}, m.Pairwise (fun c d => c.1 < d.1) → m.Nodup := fun hp =>
    hp.imp (fun hlt heq => by rw [heq] at hlt; exact Nat.lt_irrefl _ hlt)
  refine List.Perm.eq_of_pairwise (le := fun c d : Host.Cell => c.1 < d.1) ?_ h.1 h'.1
    ((List.perm_ext_iff_of_nodup (hnd h.1) (hnd h'.1)).2 hmem)
  intro a b _ _ hab hba
  omega

end Sys2Proof.Laws
end

