-- ==== Sys2Proof/Laws/State.lean ====
section
/-! SUPPORT. One lemma per field per named update of State, each true by rfl, so that no later proof
unfolds a record update; and the canonical-form fact of the reset memory. -/

namespace Sys2Proof.Laws

open Sys2Proof.Machine

section logAct

variable (a : Act) (s : State)

@[simp] theorem logAct_cfg : (logAct a s).cfg = s.cfg := rfl
@[simp] theorem logAct_crc : (logAct a s).crc = s.crc := rfl
@[simp] theorem logAct_csr : (logAct a s).csr = s.csr := rfl
@[simp] theorem logAct_dprev : (logAct a s).dprev = s.dprev := rfl
@[simp] theorem logAct_pkt : (logAct a s).pkt = s.pkt := rfl
@[simp] theorem logAct_phase : (logAct a s).phase = s.phase := rfl
@[simp] theorem logAct_savCss : (logAct a s).savCss = s.savCss := rfl
@[simp] theorem logAct_savFilt : (logAct a s).savFilt = s.savFilt := rfl
@[simp] theorem logAct_savFiltOk : (logAct a s).savFiltOk = s.savFiltOk := rfl
@[simp] theorem logAct_savAmpOn : (logAct a s).savAmpOn = s.savAmpOn := rfl
@[simp] theorem logAct_sym : (logAct a s).sym = s.sym := rfl
@[simp] theorem logAct_nsym : (logAct a s).nsym = s.nsym := rfl
@[simp] theorem logAct_sidx : (logAct a s).sidx = s.sidx := rfl
@[simp] theorem logAct_pidx : (logAct a s).pidx = s.pidx := rfl
@[simp] theorem logAct_cur : (logAct a s).cur = s.cur := rfl
@[simp] theorem logAct_tb : (logAct a s).tb = s.tb := rfl
@[simp] theorem logAct_stalled : (logAct a s).stalled = s.stalled := rfl
@[simp] theorem logAct_res : (logAct a s).res = s.res := rfl
@[simp] theorem logAct_fault : (logAct a s).fault = s.fault := rfl
@[simp] theorem logAct_pos : (logAct a s).pos = s.pos := rfl
@[simp] theorem logAct_tick : (logAct a s).tick = s.tick := rfl
@[simp] theorem logAct_trace : (logAct a s).trace = ⟨s.tick, a⟩ :: s.trace := rfl
@[simp] theorem logAct_env : (logAct a s).env = s.env := rfl

end logAct

section raiseFault

variable (k : FaultKind) (s : State)

@[simp] theorem raiseFault_cfg : (raiseFault k s).cfg = s.cfg := rfl
@[simp] theorem raiseFault_crc : (raiseFault k s).crc = s.crc := rfl
@[simp] theorem raiseFault_csr : (raiseFault k s).csr = s.csr := rfl
@[simp] theorem raiseFault_dprev : (raiseFault k s).dprev = s.dprev := rfl
@[simp] theorem raiseFault_pkt : (raiseFault k s).pkt = s.pkt := rfl
@[simp] theorem raiseFault_phase : (raiseFault k s).phase = s.phase := rfl
@[simp] theorem raiseFault_savCss : (raiseFault k s).savCss = s.savCss := rfl
@[simp] theorem raiseFault_savFilt : (raiseFault k s).savFilt = s.savFilt := rfl
@[simp] theorem raiseFault_savFiltOk : (raiseFault k s).savFiltOk = s.savFiltOk := rfl
@[simp] theorem raiseFault_savAmpOn : (raiseFault k s).savAmpOn = s.savAmpOn := rfl
@[simp] theorem raiseFault_sym : (raiseFault k s).sym = s.sym := rfl
@[simp] theorem raiseFault_nsym : (raiseFault k s).nsym = s.nsym := rfl
@[simp] theorem raiseFault_sidx : (raiseFault k s).sidx = s.sidx := rfl
@[simp] theorem raiseFault_pidx : (raiseFault k s).pidx = s.pidx := rfl
@[simp] theorem raiseFault_cur : (raiseFault k s).cur = s.cur := rfl
@[simp] theorem raiseFault_tb : (raiseFault k s).tb = s.tb := rfl
@[simp] theorem raiseFault_stalled : (raiseFault k s).stalled = s.stalled := rfl
@[simp] theorem raiseFault_res : (raiseFault k s).res = s.res := rfl
@[simp] theorem raiseFault_fault : (raiseFault k s).fault = setFaultBit k s.fault := rfl
@[simp] theorem raiseFault_pos : (raiseFault k s).pos = s.pos := rfl
@[simp] theorem raiseFault_tick : (raiseFault k s).tick = s.tick := rfl
@[simp] theorem raiseFault_trace : (raiseFault k s).trace = s.trace := rfl
@[simp] theorem raiseFault_env : (raiseFault k s).env = s.env := rfl

end raiseFault

section tickStep

variable (s : State)

@[simp] theorem tickStep_cfg : (tickStep s).cfg = s.cfg := rfl
@[simp] theorem tickStep_crc : (tickStep s).crc = s.crc := rfl
@[simp] theorem tickStep_csr : (tickStep s).csr = s.csr := rfl
@[simp] theorem tickStep_dprev : (tickStep s).dprev = s.dprev := rfl
@[simp] theorem tickStep_pkt : (tickStep s).pkt = s.pkt := rfl
@[simp] theorem tickStep_phase : (tickStep s).phase = s.phase := rfl
@[simp] theorem tickStep_savCss : (tickStep s).savCss = s.savCss := rfl
@[simp] theorem tickStep_savFilt : (tickStep s).savFilt = s.savFilt := rfl
@[simp] theorem tickStep_savFiltOk : (tickStep s).savFiltOk = s.savFiltOk := rfl
@[simp] theorem tickStep_savAmpOn : (tickStep s).savAmpOn = s.savAmpOn := rfl
@[simp] theorem tickStep_sym : (tickStep s).sym = s.sym := rfl
@[simp] theorem tickStep_nsym : (tickStep s).nsym = s.nsym := rfl
@[simp] theorem tickStep_sidx : (tickStep s).sidx = s.sidx := rfl
@[simp] theorem tickStep_pidx : (tickStep s).pidx = s.pidx := rfl
@[simp] theorem tickStep_cur : (tickStep s).cur = s.cur := rfl
@[simp] theorem tickStep_tb : (tickStep s).tb = s.tb := rfl
@[simp] theorem tickStep_stalled :
    (tickStep s).stalled = (s.stalled || waitLapses (tickAdd s.cfg s.tick 1) s) := rfl
@[simp] theorem tickStep_res : (tickStep s).res = s.res := rfl
@[simp] theorem tickStep_fault : (tickStep s).fault = s.fault := rfl
@[simp] theorem tickStep_pos : (tickStep s).pos = s.pos := rfl
@[simp] theorem tickStep_tick : (tickStep s).tick = tickAdd s.cfg s.tick 1 := rfl
@[simp] theorem tickStep_trace : (tickStep s).trace = s.trace := rfl
@[simp] theorem tickStep_env : (tickStep s).env = s.env := rfl

end tickStep

section saveFilter

variable (ok : Bool) (v : Half) (s : State)

@[simp] theorem saveFilter_cfg : (saveFilter ok v s).cfg = s.cfg := rfl
@[simp] theorem saveFilter_crc : (saveFilter ok v s).crc = s.crc := rfl
@[simp] theorem saveFilter_csr : (saveFilter ok v s).csr = s.csr := rfl
@[simp] theorem saveFilter_dprev : (saveFilter ok v s).dprev = s.dprev := rfl
@[simp] theorem saveFilter_pkt : (saveFilter ok v s).pkt = s.pkt := rfl
@[simp] theorem saveFilter_phase : (saveFilter ok v s).phase = s.phase := rfl
@[simp] theorem saveFilter_savCss : (saveFilter ok v s).savCss = s.savCss := rfl
@[simp] theorem saveFilter_savFilt : (saveFilter ok v s).savFilt = if ok then some v else s.savFilt := rfl
@[simp] theorem saveFilter_savFiltOk : (saveFilter ok v s).savFiltOk = some ok := rfl
@[simp] theorem saveFilter_savAmpOn : (saveFilter ok v s).savAmpOn = s.savAmpOn := rfl
@[simp] theorem saveFilter_sym : (saveFilter ok v s).sym = s.sym := rfl
@[simp] theorem saveFilter_nsym : (saveFilter ok v s).nsym = s.nsym := rfl
@[simp] theorem saveFilter_sidx : (saveFilter ok v s).sidx = s.sidx := rfl
@[simp] theorem saveFilter_pidx : (saveFilter ok v s).pidx = s.pidx := rfl
@[simp] theorem saveFilter_cur : (saveFilter ok v s).cur = s.cur := rfl
@[simp] theorem saveFilter_tb : (saveFilter ok v s).tb = s.tb := rfl
@[simp] theorem saveFilter_stalled : (saveFilter ok v s).stalled = s.stalled := rfl
@[simp] theorem saveFilter_res : (saveFilter ok v s).res = s.res := rfl
@[simp] theorem saveFilter_fault : (saveFilter ok v s).fault = s.fault := rfl
@[simp] theorem saveFilter_pos : (saveFilter ok v s).pos = s.pos := rfl
@[simp] theorem saveFilter_tick : (saveFilter ok v s).tick = s.tick := rfl
@[simp] theorem saveFilter_trace : (saveFilter ok v s).trace = s.trace := rfl
@[simp] theorem saveFilter_env : (saveFilter ok v s).env = s.env := rfl

end saveFilter

section beginSymbols

variable (s : State)

@[simp] theorem beginSymbols_cfg : (beginSymbols s).cfg = s.cfg := rfl
@[simp] theorem beginSymbols_crc : (beginSymbols s).crc = s.crc := rfl
@[simp] theorem beginSymbols_csr : (beginSymbols s).csr = s.csr := rfl
@[simp] theorem beginSymbols_dprev : (beginSymbols s).dprev = s.dprev := rfl
@[simp] theorem beginSymbols_pkt : (beginSymbols s).pkt = s.pkt := rfl
@[simp] theorem beginSymbols_phase : (beginSymbols s).phase = .transmitting := rfl
@[simp] theorem beginSymbols_savCss : (beginSymbols s).savCss = s.savCss := rfl
@[simp] theorem beginSymbols_savFilt : (beginSymbols s).savFilt = s.savFilt := rfl
@[simp] theorem beginSymbols_savFiltOk : (beginSymbols s).savFiltOk = s.savFiltOk := rfl
@[simp] theorem beginSymbols_savAmpOn : (beginSymbols s).savAmpOn = s.savAmpOn := rfl
@[simp] theorem beginSymbols_sym : (beginSymbols s).sym = s.sym := rfl
@[simp] theorem beginSymbols_nsym : (beginSymbols s).nsym = s.nsym := rfl
@[simp] theorem beginSymbols_sidx : (beginSymbols s).sidx = 0 := rfl
@[simp] theorem beginSymbols_pidx : (beginSymbols s).pidx = 0 := rfl
@[simp] theorem beginSymbols_cur : (beginSymbols s).cur = s.cur := rfl
@[simp] theorem beginSymbols_tb : (beginSymbols s).tb = s.tb := rfl
@[simp] theorem beginSymbols_stalled : (beginSymbols s).stalled = s.stalled := rfl
@[simp] theorem beginSymbols_res : (beginSymbols s).res = s.res := rfl
@[simp] theorem beginSymbols_fault : (beginSymbols s).fault = s.fault := rfl
@[simp] theorem beginSymbols_pos : (beginSymbols s).pos = s.pos := rfl
@[simp] theorem beginSymbols_tick : (beginSymbols s).tick = s.tick := rfl
@[simp] theorem beginSymbols_trace : (beginSymbols s).trace = s.trace := rfl
@[simp] theorem beginSymbols_env : (beginSymbols s).env = s.env := rfl

end beginSymbols

section advanceSymbol

variable (s : State)

@[simp] theorem advanceSymbol_cfg : (advanceSymbol s).cfg = s.cfg := rfl
@[simp] theorem advanceSymbol_crc : (advanceSymbol s).crc = s.crc := rfl
@[simp] theorem advanceSymbol_csr : (advanceSymbol s).csr = s.csr := rfl
@[simp] theorem advanceSymbol_dprev : (advanceSymbol s).dprev = s.dprev := rfl
@[simp] theorem advanceSymbol_pkt : (advanceSymbol s).pkt = s.pkt := rfl
@[simp] theorem advanceSymbol_phase : (advanceSymbol s).phase = s.phase := rfl
@[simp] theorem advanceSymbol_savCss : (advanceSymbol s).savCss = s.savCss := rfl
@[simp] theorem advanceSymbol_savFilt : (advanceSymbol s).savFilt = s.savFilt := rfl
@[simp] theorem advanceSymbol_savFiltOk : (advanceSymbol s).savFiltOk = s.savFiltOk := rfl
@[simp] theorem advanceSymbol_savAmpOn : (advanceSymbol s).savAmpOn = s.savAmpOn := rfl
@[simp] theorem advanceSymbol_sym : (advanceSymbol s).sym = s.sym := rfl
@[simp] theorem advanceSymbol_nsym : (advanceSymbol s).nsym = s.nsym := rfl
@[simp] theorem advanceSymbol_sidx : (advanceSymbol s).sidx = s.sidx + 1 := rfl
@[simp] theorem advanceSymbol_pidx : (advanceSymbol s).pidx = s.pidx + 1 := rfl
@[simp] theorem advanceSymbol_cur : (advanceSymbol s).cur = s.cur := rfl
@[simp] theorem advanceSymbol_tb : (advanceSymbol s).tb = s.tb := rfl
@[simp] theorem advanceSymbol_stalled : (advanceSymbol s).stalled = s.stalled := rfl
@[simp] theorem advanceSymbol_res : (advanceSymbol s).res = s.res := rfl
@[simp] theorem advanceSymbol_fault : (advanceSymbol s).fault = s.fault := rfl
@[simp] theorem advanceSymbol_pos : (advanceSymbol s).pos = s.pos := rfl
@[simp] theorem advanceSymbol_tick : (advanceSymbol s).tick = s.tick := rfl
@[simp] theorem advanceSymbol_trace : (advanceSymbol s).trace = s.trace := rfl
@[simp] theorem advanceSymbol_env : (advanceSymbol s).env = s.env := rfl

end advanceSymbol

section beginSymbol

variable (start : Nat) (s : State)

@[simp] theorem beginSymbol_cfg : (beginSymbol start s).cfg = s.cfg := rfl
@[simp] theorem beginSymbol_crc : (beginSymbol start s).crc = s.crc := rfl
@[simp] theorem beginSymbol_csr : (beginSymbol start s).csr = s.csr := rfl
@[simp] theorem beginSymbol_dprev : (beginSymbol start s).dprev = s.dprev := rfl
@[simp] theorem beginSymbol_pkt : (beginSymbol start s).pkt = s.pkt := rfl
@[simp] theorem beginSymbol_phase : (beginSymbol start s).phase = s.phase := rfl
@[simp] theorem beginSymbol_savCss : (beginSymbol start s).savCss = s.savCss := rfl
@[simp] theorem beginSymbol_savFilt : (beginSymbol start s).savFilt = s.savFilt := rfl
@[simp] theorem beginSymbol_savFiltOk : (beginSymbol start s).savFiltOk = s.savFiltOk := rfl
@[simp] theorem beginSymbol_savAmpOn : (beginSymbol start s).savAmpOn = s.savAmpOn := rfl
@[simp] theorem beginSymbol_sym : (beginSymbol start s).sym = s.sym := rfl
@[simp] theorem beginSymbol_nsym : (beginSymbol start s).nsym = s.nsym := rfl
@[simp] theorem beginSymbol_sidx : (beginSymbol start s).sidx = s.sidx := rfl
@[simp] theorem beginSymbol_pidx : (beginSymbol start s).pidx = s.pidx := rfl
@[simp] theorem beginSymbol_cur : (beginSymbol start s).cur = s.cur := rfl
@[simp] theorem beginSymbol_tb :
    (beginSymbol start s).tb = some (tickAdd s.cfg start (durTicks s.pidx)) := rfl
@[simp] theorem beginSymbol_stalled : (beginSymbol start s).stalled = s.stalled := rfl
@[simp] theorem beginSymbol_res : (beginSymbol start s).res = s.res := rfl
@[simp] theorem beginSymbol_fault : (beginSymbol start s).fault = s.fault := rfl
@[simp] theorem beginSymbol_pos : (beginSymbol start s).pos = .writeAhead := rfl
@[simp] theorem beginSymbol_tick : (beginSymbol start s).tick = s.tick := rfl
@[simp] theorem beginSymbol_trace : (beginSymbol start s).trace = s.trace := rfl
@[simp] theorem beginSymbol_env : (beginSymbol start s).env = s.env := rfl

end beginSymbol


section resetBlock

variable (s : State)

@[simp] theorem resetBlock_cfg : (resetBlock s).cfg = s.cfg := rfl
@[simp] theorem resetBlock_crc : (resetBlock s).crc = State.reset.crc := rfl
@[simp] theorem resetBlock_csr : (resetBlock s).csr = State.reset.csr := rfl
@[simp] theorem resetBlock_dprev : (resetBlock s).dprev = State.reset.dprev := rfl
@[simp] theorem resetBlock_pkt : (resetBlock s).pkt = State.reset.pkt := rfl
@[simp] theorem resetBlock_phase : (resetBlock s).phase = State.reset.phase := rfl
@[simp] theorem resetBlock_savCss : (resetBlock s).savCss = State.reset.savCss := rfl
@[simp] theorem resetBlock_savFilt : (resetBlock s).savFilt = State.reset.savFilt := rfl
@[simp] theorem resetBlock_savFiltOk : (resetBlock s).savFiltOk = State.reset.savFiltOk := rfl
@[simp] theorem resetBlock_savAmpOn : (resetBlock s).savAmpOn = State.reset.savAmpOn := rfl
@[simp] theorem resetBlock_sym : (resetBlock s).sym = State.reset.sym := rfl
@[simp] theorem resetBlock_nsym : (resetBlock s).nsym = State.reset.nsym := rfl
@[simp] theorem resetBlock_sidx : (resetBlock s).sidx = State.reset.sidx := rfl
@[simp] theorem resetBlock_pidx : (resetBlock s).pidx = State.reset.pidx := rfl
@[simp] theorem resetBlock_cur : (resetBlock s).cur = State.reset.cur := rfl
@[simp] theorem resetBlock_tb : (resetBlock s).tb = State.reset.tb := rfl
@[simp] theorem resetBlock_stalled : (resetBlock s).stalled = State.reset.stalled := rfl
@[simp] theorem resetBlock_res : (resetBlock s).res = State.reset.res := rfl
@[simp] theorem resetBlock_fault : (resetBlock s).fault = State.reset.fault := rfl
@[simp] theorem resetBlock_pos : (resetBlock s).pos = State.reset.pos := rfl
@[simp] theorem resetBlock_tick : (resetBlock s).tick = s.tick := rfl
@[simp] theorem resetBlock_trace : (resetBlock s).trace = s.trace := rfl
@[simp] theorem resetBlock_env : (resetBlock s).env = s.env := rfl

end resetBlock

section reset

@[simp] theorem reset_crc : State.reset.crc = 0x0000 := rfl
@[simp] theorem reset_csr : State.reset.csr = 0x00 := rfl
@[simp] theorem reset_dprev : State.reset.dprev = false := rfl
@[simp] theorem reset_pkt : State.reset.pkt = [] := rfl
@[simp] theorem reset_phase : State.reset.phase = .idle := rfl
@[simp] theorem reset_savCss : State.reset.savCss = none := rfl
@[simp] theorem reset_savFilt : State.reset.savFilt = none := rfl
@[simp] theorem reset_savFiltOk : State.reset.savFiltOk = none := rfl
@[simp] theorem reset_savAmpOn : State.reset.savAmpOn = none := rfl
@[simp] theorem reset_sym : State.reset.sym = [] := rfl
@[simp] theorem reset_nsym : State.reset.nsym = 0 := rfl
@[simp] theorem reset_sidx : State.reset.sidx = 0 := rfl
@[simp] theorem reset_pidx : State.reset.pidx = 0 := rfl
@[simp] theorem reset_cur : State.reset.cur = none := rfl
@[simp] theorem reset_tb : State.reset.tb = none := rfl
@[simp] theorem reset_stalled : State.reset.stalled = false := rfl
@[simp] theorem reset_res : State.reset.res = none := rfl
@[simp] theorem reset_fault : State.reset.fault = ⟨false, false, false⟩ := rfl
@[simp] theorem reset_pos : State.reset.pos = .idle := rfl
@[simp] theorem reset_trace : State.reset.trace = [] := rfl

end reset

/-- Reset memory lists nothing, so it has the canonical form. -/
theorem reset_pkt_wf : State.reset.pkt.wf := by decide

end Sys2Proof.Laws
end

