-- ==== Sys2Proof/Laws/Ops.lean ====
section
/-! SUPPORT. What each shared operation can do, said once: the stages' reads inside ENCODE, oracle draws,
how a command ends, tick arithmetic, and which agent moves. -/

namespace Sys2Proof.Laws

open Sys2Proof.Machine

/-! ## How a command ends -/

theorem complete_eq (s : State) : complete s = .next (logAct (.completed s.res) s) := rfl

theorem completeWith_eq (r : ResWord) (s : State) :
    completeWith r s = .next (logAct (.completed (some r)) { s with res := some r }) := rfl

theorem completeXmit_eq (r : ResWord) (s : State) :
    completeXmit r s =
      .next (logAct (.completed (some r)) { s with phase := .idle, pos := .idle, res := some r }) := rfl

theorem failWith_eq (k : FaultKind) (s : State) : failWith k s = .next (raiseFault k s) := rfl

theorem abortXmit_eq (s : State) :
    abortXmit s = .next (raiseFault .uninit { s with phase := .idle, pos := .idle }) := rfl

/-- A stage command completes, or raises UNINIT having written nothing. -/
theorem completeStage_cases (r : Option State) (s : State) :
    (∃ t, r = some t ∧ completeStage r s = complete t) ∨
      (r = none ∧ completeStage r s = failWith .uninit s) := by
  cases r with
  | some t => exact .inl ⟨t, rfl, rfl⟩
  | none => exact .inr ⟨rfl, rfl⟩

/-- A transmitter step that reads a register goes on with its value, or aborts. -/
theorem needValue_cases {α : Type} (o : Option α) (s : State) (k : α → Out) :
    (∃ a, o = some a ∧ needValue o s k = k a) ∨ (o = none ∧ needValue o s k = abortXmit s) := by
  cases o with
  | some a => exact .inl ⟨a, rfl, rfl⟩
  | none => exact .inr ⟨rfl, rfl⟩

@[simp] theorem needValue_some {α : Type} (a : α) (s : State) (k : α → Out) :
    needValue (some a) s k = k a := rfl

@[simp] theorem needValue_none {α : Type} (s : State) (k : α → Out) :
    needValue none s k = abortXmit s := rfl

/-- LATE is the only change a lateness check can make. -/
theorem markLate_eq (target : Nat) (s : State) :
    markLate target s =
      { s with fault := { s.fault with late := s.fault.late || (s.stalled || reached s.cfg s.tick target) } } := by
  unfold markLate
  cases h : s.stalled || reached s.cfg s.tick target <;> simp [raiseFault, setFaultBit]

/-! ## Oracle draws -/

/-- A draw takes the head of the script, or a free value and counts it. -/
theorem draw_cases {α : Type} (script : List α) (free : Nat → α) (setScript : List α → Env → Env)
    (e : Env) :
    (∃ a rest, script = a :: rest ∧ draw script free setScript e = (a, setScript rest e)) ∨
      (script = [] ∧ draw script free setScript e = (free e.draws, { e with draws := e.draws + 1 })) := by
  cases script with
  | cons a rest => exact .inl ⟨a, rest, rfl, rfl⟩
  | nil => exact .inr ⟨rfl, rfl⟩

/-- No draw touches the host's acts, the schedule or its fallback. -/
theorem draw_keeps {α : Type} (script : List α) (free : Nat → α) (setScript : List α → Env → Env) (e : Env)
    (hs : ∀ r, (setScript r e).host = e.host ∧ (setScript r e).moves = e.moves ∧
      (setScript r e).fallback = e.fallback) :
    (draw script free setScript e).2.host = e.host ∧ (draw script free setScript e).2.moves = e.moves ∧
      (draw script free setScript e).2.fallback = e.fallback := by
  rcases draw_cases script free setScript e with ⟨a, rest, -, h⟩ | ⟨-, h⟩
  · rw [h]; exact hs rest
  · rw [h]; exact ⟨rfl, rfl, rfl⟩

/-! ## Ticks -/

theorem tickSpan_pos (p : Params) : 0 < tickSpan p := Nat.two_pow_pos _

/-- The span is twice its half, so `reached` splits the circle in two equal parts. -/
theorem tickSpan_eq (p : Params) : tickSpan p = 2 * 2 ^ (p.tickBits - 1) := by
  have := p.tickBits_ge
  obtain ⟨n, hn⟩ : ∃ n, p.tickBits = n + 1 := ⟨p.tickBits - 1, by omega⟩
  rw [tickSpan, hn, Nat.pow_succ, Nat.add_sub_cancel, Nat.mul_comm]

/-- TICK_BITS ≥ 16: half the span is above every interval the block uses. -/
theorem half_span_ge (p : Params) : 32768 ≤ 2 ^ (p.tickBits - 1) := by
  have := p.tickBits_ge
  exact (Nat.pow_le_pow_right (by decide) (by omega : 15 ≤ p.tickBits - 1) : 2 ^ 15 ≤ _)

theorem tickAdd_lt (p : Params) (a d : Nat) : tickAdd p a d < tickSpan p :=
  Nat.mod_lt _ (tickSpan_pos p)

theorem tickSub_lt (p : Params) (a d : Nat) : tickSub p a d < tickSpan p :=
  Nat.mod_lt _ (tickSpan_pos p)

/-- Steps add up. -/
theorem tickAdd_tickAdd (p : Params) (a d e : Nat) : tickAdd p (tickAdd p a d) e = tickAdd p a (d + e) := by
  simp [tickAdd, Nat.add_assoc]

/-! ## The encoder's stages -/

/-- PKT after a stage that writes a run. -/
theorem fecBytes_length (csr : Byte) (ds : List Byte) : (fecBytes csr ds).2.length = ds.length := by
  induction ds generalizing csr with
  | nil => rfl
  | cons d ds ih => simp [fecBytes, ih]

theorem diffBytes_length (p : Bool) (cs : List Byte) : (diffBytes p cs).2.length = cs.length := by
  induction cs generalizing p with
  | nil => rfl
  | cons c cs ih => simp [diffBytes, ih]

theorem packMsb_length (xs : List Bool) (n : Nat) : (packMsb xs n).length = n := by
  induction n generalizing xs with
  | zero => rfl
  | succ n ih => simp [packMsb, ih]

theorem ilvBytes_length (cs : List Byte) : (ilvBytes cs).length = 14 := packMsb_length _ _

theorem frameBytes_length (op arg : Byte) (unit : Half) : (frameBytes op arg unit).length = 7 := rfl

theorem syncBytes_length (p : Params) : (syncBytes p).length = 5 := by simp [syncBytes]

/-- SYNC_PATTERN's five bytes are the whole vector. -/
theorem syncBytes_eq (p : Params) : syncBytes p = p.sync.toList := by
  apply List.ext_getElem
  · simp [syncBytes]
  · intro i hi _
    have : i < 5 := by simpa [syncBytes] using hi
    interval_cases i <;> simp [syncBytes]

/-- What FECENC does when it runs. -/
theorem fecStage_eq_some {s t : State} (h : fecStage s = some t) :
    ∃ ds, readBytes s.pkt 12 7 = some ds ∧
      t = { s with pkt := writeBytes s.pkt 19 (fecBytes 0 ds).2, csr := (fecBytes 0 ds).1 } := by
  unfold fecStage at h
  split at h
  · rename_i ds hds
    exact ⟨ds, hds, (Option.some.inj h).symm⟩
  · cases h

/-- What ILV does when it runs. -/
theorem ilvStage_eq_some {s t : State} (h : ilvStage s = some t) :
    ∃ cs, readBytes s.pkt 12 14 = some cs ∧ t = { s with pkt := writeBytes s.pkt 12 (ilvBytes cs) } := by
  unfold ilvStage at h
  split at h
  · rename_i cs hcs
    exact ⟨cs, hcs, (Option.some.inj h).symm⟩
  · cases h

/-- What DIFF does when it runs. -/
theorem diffStage_eq_some {s t : State} (h : diffStage s = some t) :
    ∃ cs, readBytes s.pkt 0 26 = some cs ∧
      t = { s with pkt := writeBytes s.pkt 0 (diffBytes false cs).2, dprev := (diffBytes false cs).1 } := by
  unfold diffStage at h
  split at h
  · rename_i cs hcs
    exact ⟨cs, hcs, (Option.some.inj h).symm⟩
  · cases h

/-- A run of reads succeeds when every index of the run holds a value. -/
theorem readBytes_isSome {m : Memory} {i n : Nat}
    (h : ∀ j, i ≤ j → j < i + n → (cellRead m j).isSome = true) : ∃ bs, readBytes m i n = some bs := by
  cases hr : readBytes m i n with
  | some bs => exact ⟨bs, rfl⟩
  | none =>
    obtain ⟨k, hk, hn⟩ := readBytes_eq_none.1 hr
    have := h (i + k) (by omega) (by omega)
    rw [hn] at this
    cases this

/-- Writing a run makes every index of it hold a value and takes none away. -/
theorem cellRead_writeBytes_isSome {m : Memory} {i : Nat} {bs : List Byte} {j : Nat}
    (h : (i ≤ j ∧ j < i + bs.length) ∨ (cellRead m j).isSome = true) :
    (cellRead (writeBytes m i bs) j).isSome = true := by
  rw [cellRead_writeBytes]
  split
  · rename_i hj
    rw [List.getElem?_eq_getElem (by omega)]
    rfl
  · rcases h with h | h
    · contradiction
    · exact h

/-- ENCODE's stages never meet a byte without a value (45_encode.md R650). -/
theorem encodeStages_isSome (op arg : Byte) (unit : Half) (s : State) :
    ∃ t, encodeStages op arg unit s = some t := by
  have hp : preambleBytes.length = 7 := by decide
  have hy := syncBytes_length s.cfg
  have hf := frameBytes_length op arg unit
  -- after LEADER and FRAME, indices 0 to 18 hold values
  have h1 : ∀ j, j < 19 → (cellRead (frameStage op arg unit (leaderStage s)).pkt j).isSome = true := by
    intro j hj
    refine cellRead_writeBytes_isSome ?_
    by_cases hj' : 12 ≤ j
    · exact .inl ⟨hj', by omega⟩
    · refine .inr (cellRead_writeBytes_isSome ?_)
      by_cases hj'' : 7 ≤ j
      · exact .inl ⟨hj'', by omega⟩
      · exact .inr (cellRead_writeBytes_isSome (.inl ⟨by omega, by omega⟩))
  obtain ⟨ds, hds⟩ := readBytes_isSome (m := (frameStage op arg unit (leaderStage s)).pkt) (i := 12) (n := 7)
    fun j _ hj => h1 j (by omega)
  have e1 : fecStage (frameStage op arg unit (leaderStage s)) =
      some { frameStage op arg unit (leaderStage s) with
        pkt := writeBytes (frameStage op arg unit (leaderStage s)).pkt 19 (fecBytes 0 ds).2
        csr := (fecBytes 0 ds).1 } := by
    unfold fecStage
    rw [show FRAME_LEN = 7 from rfl, hds]
  have hl : (fecBytes 0 ds).2.length = 7 := (fecBytes_length 0 ds).trans (readBytes_eq_some.1 hds).1
  unfold encodeStages
  rw [e1]
  generalize ht : ({ frameStage op arg unit (leaderStage s) with
        pkt := writeBytes (frameStage op arg unit (leaderStage s)).pkt 19 (fecBytes 0 ds).2
        csr := (fecBytes 0 ds).1 } : State) = t
  have h2 : ∀ j, j < 26 → (cellRead t.pkt j).isSome = true := by
    intro j hj
    subst ht
    refine cellRead_writeBytes_isSome ?_
    by_cases hj' : 19 ≤ j
    · exact .inl ⟨hj', by omega⟩
    · exact .inr (h1 j (by omega))
  obtain ⟨cs, hcs⟩ := readBytes_isSome (m := t.pkt) (i := 12) (n := 14) fun j _ hj => h2 j (by omega)
  have e2 : ilvStage t = some { t with pkt := writeBytes t.pkt 12 (ilvBytes cs) } := by
    unfold ilvStage
    rw [show CODED_LEN = 14 from rfl, hcs]
  simp only [e2]
  obtain ⟨ps, hps⟩ := readBytes_isSome (m := writeBytes t.pkt 12 (ilvBytes cs)) (i := 0) (n := 26)
    fun j _ hj => cellRead_writeBytes_isSome (.inr (h2 j (by omega)))
  unfold diffStage
  simp only [show PACKET_LEN = 26 from rfl, hps]
  exact ⟨_, rfl⟩

/-! ## Every memory operation keeps the canonical form -/

theorem memWrite_keeps_wf {m m' : Memory} (h : m.wf) {i : Nat} {v : Byte} (hw : memWrite i v m = .ok m') :
    m'.wf := by
  unfold memWrite at hw
  split at hw
  · cases hw
  · obtain rfl := Except.ok.inj hw
    exact wf_cellWrite h (by omega) v

theorem leaderStage_keeps_wf {s : State} (h : s.pkt.wf) : (leaderStage s).pkt.wf :=
  wf_writeBytes (wf_writeBytes h (by decide)) (by rw [syncBytes_length]; decide)

theorem frameStage_keeps_wf {s : State} (h : s.pkt.wf) (op arg : Byte) (unit : Half) :
    (frameStage op arg unit s).pkt.wf :=
  wf_writeBytes h (by rw [frameBytes_length]; decide)

theorem fecStage_keeps_wf {s t : State} (h : s.pkt.wf) (ht : fecStage s = some t) : t.pkt.wf := by
  obtain ⟨ds, hds, rfl⟩ := fecStage_eq_some ht
  exact wf_writeBytes h (by rw [fecBytes_length, (readBytes_eq_some.1 hds).1])

theorem ilvStage_keeps_wf {s t : State} (h : s.pkt.wf) (ht : ilvStage s = some t) : t.pkt.wf := by
  obtain ⟨cs, -, rfl⟩ := ilvStage_eq_some ht
  exact wf_writeBytes h (by rw [ilvBytes_length])

theorem diffStage_keeps_wf {s t : State} (h : s.pkt.wf) (ht : diffStage s = some t) : t.pkt.wf := by
  obtain ⟨cs, hcs, rfl⟩ := diffStage_eq_some ht
  exact wf_writeBytes h (by rw [diffBytes_length, (readBytes_eq_some.1 hcs).1])

theorem encodeStages_keeps_wf {s t : State} (h : s.pkt.wf) {op arg : Byte} {unit : Half}
    (ht : encodeStages op arg unit s = some t) : t.pkt.wf := by
  unfold encodeStages at ht
  split at ht
  · cases ht
  · rename_i u hu
    split at ht
    · cases ht
    · rename_i v hv
      exact diffStage_keeps_wf (ilvStage_keeps_wf
        (fecStage_keeps_wf (frameStage_keeps_wf (leaderStage_keeps_wf h) op arg unit) hu) hv) ht

/-! ## Which agent moves -/

/-- Everything a step can do: after taking its move from the script or the free values (which changes
nothing but `env`, and not the host's acts), the tick counter steps, the block is reset, the sequencer
makes its next step, or, polling while held, nothing happens. -/
theorem step_cases (s : State) :
    ∃ e : Env, e.host = s.env.host ∧
      (step s = .next (tickStep { s with env := e }) ∨ step s = .next (resetBlock { s with env := e }) ∨
        (∃ o, seqStep { s with env := e } = some o ∧ step s = o) ∨
        (seqStep { s with env := e } = none ∧ step s = .next { s with env := e })) := by
  have key : ∀ (m : Move) (e : Env), e.host = s.env.host → step s = moveStep m { s with env := e } →
      ∃ e : Env, e.host = s.env.host ∧
      (step s = .next (tickStep { s with env := e }) ∨ step s = .next (resetBlock { s with env := e }) ∨
        (∃ o, seqStep { s with env := e } = some o ∧ step s = o) ∨
        (seqStep { s with env := e } = none ∧ step s = .next { s with env := e })) := by
    intro m e he hs
    refine ⟨e, he, ?_⟩
    cases m with
    | tick => exact .inl hs
    | reset => exact .inr (.inl hs)
    | sequencer =>
      cases hq : seqStep { s with env := e } with
      | some o => exact .inr (.inr (.inl ⟨o, rfl, by rw [hs]; simp [moveStep, hq]⟩))
      | none => exact .inr (.inr (.inr ⟨rfl, by rw [hs]; simp [moveStep, hq]⟩))
  cases hm : s.env.moves with
  | cons m rest => exact key m { s.env with moves := rest } rfl (by simp [step, scheduledStep, hm])
  | nil =>
    cases hf : s.env.fallback with
    | free =>
      exact key (Config.freeMove s.env.draws) { s.env with draws := s.env.draws + 1 } rfl
        (by simp [step, scheduledStep, hm, hf])
    | eager =>
      have hs : step s = eagerStep s := by simp [step, scheduledStep, hm, hf]
      refine ⟨s.env, rfl, ?_⟩
      cases hq : seqStep s with
      | some o => exact .inr (.inr (.inl ⟨o, rfl, by rw [hs, eagerStep, hq]; rfl⟩))
      | none => exact .inl (by rw [hs, eagerStep, hq]; rfl)

/-- A scripted sequencer move is the sequencer's next step, or a poll without effect. -/
theorem step_sequencer {s : State} {rest : List Move} (h : s.env.moves = .sequencer :: rest) :
    step s = (seqStep { s with env := { s.env with moves := rest } }).getD
      (.next { s with env := { s.env with moves := rest } }) := by
  simp [step, scheduledStep, h, moveStep]

/-- Under the eager schedule the sequencer steps when it can, and the tick counter when it cannot. -/
theorem step_eager {s : State} (h : s.env.moves = []) (h' : s.env.fallback = .eager) :
    step s = (seqStep s).getD (.next (tickStep s)) := by
  simp [step, scheduledStep, h, h', eagerStep]

/-- On the sequencer's turn, by whatever schedule, a step it has is the machine's step. -/
theorem step_of_turn {s s0 : State} (h : s.sequencerTurn s0) {o : Out} (ho : seqStep s0 = some o) :
    step s = o := by
  rcases h with ⟨rest, hm, rfl⟩ | ⟨⟨hm, hf⟩, rfl⟩ | ⟨hm, hf, hd, rfl⟩
  · rw [step_sequencer hm, ho]; rfl
  · rw [step_eager hm hf, ho]; rfl
  · simp only [hm, hf] at ho
    simp [step, scheduledStep, hm, hf, hd, moveStep, ho]

/-- Taking the turn changes nothing but the script or the count of free values. -/
theorem sequencerTurn_env {s s0 : State} (h : s.sequencerTurn s0) :
    ∃ e : Env, s0 = { s with env := e } ∧ e.host = s.env.host := by
  rcases h with ⟨rest, hm, rfl⟩ | ⟨⟨hm, hf⟩, rfl⟩ | ⟨hm, hf, hd, rfl⟩ <;> exact ⟨_, rfl, rfl⟩

/-! ## Waits (00_scope.md R18, 46_transmitter.md R717) -/

/-- A poll finds the wait's target reached and goes on, or holds. -/
theorem pollWait_eq {s : State} {tb : Nat} (h : s.tb = some tb) (k : Nat → Out) :
    pollWait s k = if reached s.cfg s.tick (waitPoint s.cfg s.pos tb) then some (k tb) else none := by
  simp [pollWait, h]

theorem waitPoint_writeAhead (p : Params) (tb : Nat) :
    waitPoint p .writeAhead tb = tickSub p tb p.leadTicks := rfl

/-- Every wait but the write-ahead one is for TB itself. -/
theorem waitPoint_of_ne {pos : Pos} (h : pos ≠ .writeAhead) (p : Params) (tb : Nat) :
    waitPoint p pos tb = tb := by
  simp [waitPoint, h]

/-! ## Stalled waits (70_reset_and_hazards.md R915) -/

/-- A tick can only set the record of a stall. -/
theorem tickStep_stalled_of_stalled {s : State} (h : s.stalled = true) : (tickStep s).stalled = true := by
  simp [h]

/-- Outside the waits no tick records a stall. -/
theorem waitLapses_of_not_waits {s : State} (h : s.pos.waits = false) (now : Nat) :
    waitLapses now s = false := by
  simp [waitLapses, h]

/-- In a wait, a tick records a stall exactly when the target stops reading as reached. -/
theorem waitLapses_of_waits {s : State} (h : s.pos.waits = true) {tb : Nat} (ht : s.tb = some tb)
    (now : Nat) :
    waitLapses now s = (reached s.cfg s.tick (waitPoint s.cfg s.pos tb) &&
      !reached s.cfg now (waitPoint s.cfg s.pos tb)) := by
  simp [waitLapses, h, ht]

end Sys2Proof.Laws
end

