-- ==== Sys2Proof/Laws/PerInstr.lean ====
section
/-! SUPPORT. Facts about every instruction as syntax, one lemma per constructor: its encoding matches its
row of the table of 30_encoding.md R304. -/

namespace Sys2Proof.Laws

/-- A field shifted to bit k lies outside a mask whose bits k to k + n - 1 are zero. -/
theorem shifted_and_mask {n : Nat} (x : BitVec n) (k : Nat) (m : CmdWord)
    (h : ∀ i < 64, k ≤ i → i < k + n → m.getLsbD i = false) :
    (x.setWidth 64 <<< k) &&& m = 0 := by
  apply BitVec.eq_of_getLsbD_eq
  intro i hi
  rw [BitVec.getLsbD_and, BitVec.getLsbD_shiftLeft, BitVec.getLsbD_setWidth,
    show (0 : CmdWord).getLsbD i = false from BitVec.getLsbD_zero]
  by_cases hk : k ≤ i ∧ i < k + n
  · rw [h i hi hk.1 hk.2, Bool.and_false]
  · by_cases hlt : i < k
    · simp [hlt]
    · rw [BitVec.getLsbD_of_ge x (i - k) (by omega), Bool.and_false, Bool.and_false, Bool.false_and]

/-- A packed word under a mask: what each field leaves. -/
theorem packWord_and (opc a b : Byte) (u : Half) (n : Bool) (m : CmdWord) :
    packWord opc a b u n &&& m =
      opc.setWidth 64 &&& m ||| (a.setWidth 64 <<< 8) &&& m ||| (b.setWidth 64 <<< 16) &&& m
        ||| (u.setWidth 64 <<< 24) &&& m ||| ((BitVec.ofBool n).setWidth 64 <<< 40) &&& m := by
  apply BitVec.eq_of_getLsbD_eq
  intro i _
  simp only [packWord, BitVec.getLsbD_and, BitVec.getLsbD_or, Bool.and_or_distrib_right]

/-- The word of i matches the table row of i's mnemonic (30_encoding.md R304). -/
def TableMatch.Statement (i : Instr) : Prop :=
  ∃ r ∈ opcodeTable, r.mnemonic = i.mnemonic ∧ r.selects (encode i) = true

theorem TableMatch.crcinit : TableMatch.Statement .crcinit :=
  ⟨⟨"CRCINIT", 0x01, 0xFFFFFFFFFFFFFFFF⟩, by decide, rfl, by decide⟩

theorem TableMatch.crcbyte (b : Byte) : TableMatch.Statement (.crcbyte b) := by
  refine ⟨⟨"CRCBYTE", 0x02, 0xFFFFFFFFFFFF00FF⟩, by decide, rfl, ?_⟩
  rw [TableRow.selects, encode, packWord_and, shifted_and_mask b 8 _ (by decide)]
  decide

theorem TableMatch.crcread : TableMatch.Statement .crcread :=
  ⟨⟨"CRCREAD", 0x03, 0xFFFFFFFFFFFFFFFF⟩, by decide, rfl, by decide⟩

theorem TableMatch.leader : TableMatch.Statement .leader :=
  ⟨⟨"LEADER", 0x10, 0xFFFFFFFFFFFFFFFF⟩, by decide, rfl, by decide⟩

theorem TableMatch.frame (op arg : Byte) (unit : Half) : TableMatch.Statement (.frame op arg unit) := by
  refine ⟨⟨"FRAME", 0x11, 0xFFFFFF00000000FF⟩, by decide, rfl, ?_⟩
  rw [TableRow.selects, encode, packWord_and, shifted_and_mask op 8 _ (by decide),
    shifted_and_mask arg 16 _ (by decide), shifted_and_mask unit 24 _ (by decide)]
  decide

theorem TableMatch.fecenc : TableMatch.Statement .fecenc :=
  ⟨⟨"FECENC", 0x12, 0xFFFFFFFFFFFFFFFF⟩, by decide, rfl, by decide⟩

theorem TableMatch.ilv : TableMatch.Statement .ilv :=
  ⟨⟨"ILV", 0x13, 0xFFFFFFFFFFFFFFFF⟩, by decide, rfl, by decide⟩

theorem TableMatch.diff : TableMatch.Statement .diff :=
  ⟨⟨"DIFF", 0x14, 0xFFFFFFFFFFFFFFFF⟩, by decide, rfl, by decide⟩

theorem TableMatch.encode (op arg : Byte) (unit : Half) (null : Bool) :
    TableMatch.Statement (.encode op arg unit null) := by
  refine ⟨⟨"ENCODE", 0x18, 0xFFFFFE00000000FF⟩, by decide, rfl, ?_⟩
  rw [TableRow.selects, Sys2Proof.encode, packWord_and, shifted_and_mask op 8 _ (by decide),
    shifted_and_mask arg 16 _ (by decide), shifted_and_mask unit 24 _ (by decide),
    shifted_and_mask (BitVec.ofBool null) 40 _ (by decide)]
  decide

theorem TableMatch.pktwr (i v : Byte) : TableMatch.Statement (.pktwr i v) := by
  refine ⟨⟨"PKTWR", 0x20, 0xFFFFFFFFFF0000FF⟩, by decide, rfl, ?_⟩
  rw [TableRow.selects, Sys2Proof.encode, packWord_and, shifted_and_mask i 8 _ (by decide),
    shifted_and_mask v 16 _ (by decide)]
  decide

theorem TableMatch.pktrd (i : Byte) : TableMatch.Statement (.pktrd i) := by
  refine ⟨⟨"PKTRD", 0x21, 0xFFFFFFFFFFFF00FF⟩, by decide, rfl, ?_⟩
  rw [TableRow.selects, Sys2Proof.encode, packWord_and, shifted_and_mask i 8 _ (by decide)]
  decide

theorem TableMatch.xmit (len : Byte) : TableMatch.Statement (.xmit len) := by
  refine ⟨⟨"XMIT", 0x30, 0xFFFFFFFFFFFF00FF⟩, by decide, rfl, ?_⟩
  rw [TableRow.selects, Sys2Proof.encode, packWord_and, shifted_and_mask len 8 _ (by decide)]
  decide

theorem TableMatch.postid (unit : Half) : TableMatch.Statement (.postid unit) := by
  refine ⟨⟨"POSTID", 0x31, 0xFFFFFF0000FFFFFF⟩, by decide, rfl, ?_⟩
  rw [TableRow.selects, Sys2Proof.encode, packWord_and, shifted_and_mask unit 24 _ (by decide)]
  decide

end Sys2Proof.Laws
end

