-- ==== Sys2Proof/Tests/Slice0.lean ====
section
/-! SUPPORT. Tests of the model, with results taken from 95_test_vectors.md or computed by hand from a
rule, and a witness for the hypotheses of each statement in Obligations.lean. -/

namespace Sys2Proof.Tests

open Sys2Proof Sys2Proof.Machine

/-! ## Small states -/

/-- The SYNC instance of 95_test_vectors.md, its POSTID instance, and LEAD_TICKS = 3 (P5). -/
def cfgS : Params :=
  { sync := #v[0x07, 0x09, 0x2A, 0x44, 0x6F], pttidOp := 0x01, pttidArg := 0x00, leadTicks := 3,
    filterRegIndex := 5, filterOffValue := 0xBEEF, filterSafeDefault := 0xAAAA, ampMode := 2 }

/-- The reset state with that configuration and TICK = 0. -/
def idle0 : State := { State.reset with cfg := cfgS, tick := 0 }

/-- `idle0` with PKT[0..] as given. -/
def holding (bs : List Byte) : State := { idle0 with pkt := writeBytes [] 0 bs }

/-- `idle0` with PKT[12..] as given. -/
def framed (bs : List Byte) : State := { idle0 with pkt := writeBytes [] 12 bs }

/-- A written packet. -/
def full : State := holding (List.replicate 26 0x55)

/-- `idle0` with a host act waiting and the sequencer next by the script. -/
def offering (a : HostAct) : State := { idle0 with env := { Env.quiet with host := [a], moves := [.sequencer] } }

/-- The same under the eager schedule. -/
def offeringEager (a : HostAct) : State := { idle0 with env := { Env.quiet with host := [a] } }

/-- `s` under the eager schedule with answers to XMIT's two queries. -/
def asked (m : RadioMode) (e : Bool) (s : State) : State :=
  { s with env := { Env.quiet with modeAns := [m], txenAns := [e] } }

/-- A transmission of PKT[0..1] = A5 0F in the place `p` (P5's symbols and saved values), begun at the
tick 3. -/
def sending (p : Pos) : State :=
  { holding [0xA5, 0x0F] with
    phase := p.phase, pos := p, savCss := some (.other 7), savFilt := some 0x1234, savFiltOk := some true,
    savAmpOn := some false, sym := bitstream [0xA5, 0x0F], nsym := 16, cur := some true, tb := some 3,
    stalled := false, tick := 3, trace := eventsAt 0 [.ampQuery 2 false, .feRead 5 true 0x1234, .cssGet (.other 7)] }

/-- `s` with the sequencer next by the script. -/
def polled (s : State) : State := { s with env := { s.env with moves := [.sequencer] } }

/-- `s` with the script used up. -/
def taken (s : State) : State := { s with env := { s.env with moves := [] } }

theorem polled_turn (s : State) : (polled s).sequencerTurn (taken (polled s)) := .inl ⟨[], rfl, rfl⟩
theorem offering_turn (a : HostAct) : (offering a).sequencerTurn (taken (offering a)) := .inl ⟨[], rfl, rfl⟩
theorem eager_turn {s : State} (h : s.eager) : s.sequencerTurn s := .inr (.inl ⟨h, rfl⟩)

/-- In symbol n of that transmission, whose end is the tick 3 + c(n). -/
def inSymbol (n : Nat) (p : Fin 3) (cur : Bool) (now : Nat) : State :=
  { sending .boundary with sidx := n, pidx := p, cur := some cur, tb := some (3 + symbolEnd n), tick := now }

/-- The same before the symbol's write-ahead step. -/
def ahead (n : Nat) (p : Fin 3) (cur : Bool) (now : Nat) : State :=
  { sending .writeAhead with sidx := n, pidx := p, cur := some cur, tb := some (3 + symbolEnd n), tick := now }

/-- A view of the next state. -/
def see {α : Type} (f : State → α) (o : Out) : Option α :=
  match o with
  | .next t => some (f t)
  | _ => none

/-- PKT as 26 optional bytes. -/
def bytes (s : State) : List (Option Byte) := (List.range 26).map (cellRead s.pkt)

/-! ## WellFormed (30_encoding.md R305 (d), R310) -/

theorem test_wellFormed_pktwr_25 : (Instr.pktwr 25 0).wellFormed = true := by decide
theorem test_wellFormed_refuses_pktwr_26 : (Instr.pktwr 26 0).wellFormed = false := by decide
theorem test_wellFormed_refuses_pktrd_26 : (Instr.pktrd 26).wellFormed = false := by decide
theorem test_wellFormed_refuses_pktrd_255 : (Instr.pktrd 255).wellFormed = false := by decide
theorem test_wellFormed_xmit_255 : (Instr.xmit 255).wellFormed = true := by decide

/-! ## Decoding: words of 95_test_vectors.md and of 30_encoding.md R303 -/

theorem test_decode_crcinit : decode 0x0000000000000001 = .ok .crcinit := by decide
theorem test_decode_crcbyte : decode 0x0000000000001202 = .ok (.crcbyte 0x12) := by decide
theorem test_decode_crcread : decode 0x0000000000000003 = .ok .crcread := by decide
theorem test_decode_leader : decode 0x0000000000000010 = .ok .leader := by decide
theorem test_decode_frame : decode 0x0000001234800111 = .ok (.frame 0x01 0x80 0x1234) := by decide
theorem test_decode_fecenc : decode 0x0000000000000012 = .ok .fecenc := by decide
theorem test_decode_ilv : decode 0x0000000000000013 = .ok .ilv := by decide
theorem test_decode_diff : decode 0x0000000000000014 = .ok .diff := by decide
theorem test_decode_encode : decode 0x000000FFFFFFFF18 = .ok (.encode 0xFF 0xFF 0xFFFF false) := by decide
theorem test_decode_encode_null : decode 0x0000011234000118 = .ok (.encode 0x01 0x00 0x1234 true) := by decide
theorem test_decode_pktwr : decode 0x00000000000F0120 = .ok (.pktwr 1 0x0F) := by decide
theorem test_decode_pktrd : decode 0x0000000000001921 = .ok (.pktrd 25) := by decide
theorem test_decode_xmit : decode 0x000000000000FF30 = .ok (.xmit 255) := by decide
theorem test_decode_postid : decode 0x000000FFFF000031 = .ok (.postid 0xFFFF) := by decide
theorem test_decode_zero_word : decode 0x0000000000000000 = .error .reservedOpcode := by decide
theorem test_decode_unused_a : decode 0x0000000000000101 = .error .unusedField := by decide
theorem test_decode_unused_b : decode 0x0000000000FF0030 = .error .unusedField := by decide
theorem test_decode_bit_41 : decode 0x0000020000000018 = .error .reservedBits := by decide
theorem test_decode_frame_null : decode 0x0000010000000011 = .error .unusedField := by decide
theorem test_decode_index_26 : decode 0x0000000000001A21 = .error .indexTooLarge := by decide
theorem test_encode_encode : encode (.encode 0xFF 0xFF 0xFFFF true) = 0x000001FFFFFFFF18 := by decide
theorem test_encode_pktwr : encode (.pktwr 3 0xA5) = 0x0000000000A50320 := by decide
theorem test_decodeTableWord : decodeTableWord 64 0x1A30 = some (.xmit 26) := by decide

/-! ## The commands: Level 2 of 95_test_vectors.md -/

theorem test_crcinit : see State.crc (exec .crcinit { idle0 with crc := 0xAAAA }) = some 0x0000 := by decide
theorem test_crcbyte : see State.crc (exec (.crcbyte 0x72) { idle0 with crc := 0x6572 }) = some 0x10D6 := by
  decide
theorem test_crcbyte_top_bit : see State.crc (exec (.crcbyte 0) { idle0 with crc := 0x8000 }) = some 0x9188 := by
  decide
theorem test_crcread : see State.res (exec .crcread { idle0 with crc := 0x6572 }) = some (some 0x00006572) := by
  decide
theorem test_leader : see bytes (exec .leader (framed [0x5A])) = some (
    [some 0, some 0, some 0, some 0, some 0, some 0, some 0, some 0x07, some 0x09, some 0x2A, some 0x44,
      some 0x6F, some 0x5A] ++ List.replicate 13 none) := by decide +kernel
theorem test_frame : see (fun t => (t.crc, (bytes t).drop 12)) (exec (.frame 0x01 0x80 0x1234) idle0) =
    some (0x5E28, [some 0x01, some 0x80, some 0x12, some 0x34, some 0x28, some 0x5E, some 0x00] ++
      List.replicate 7 none) := by decide +kernel
theorem test_fecenc : see (fun t => (t.csr, (bytes t).drop 19))
    (exec .fecenc (framed [0x01, 0x80, 0x12, 0x34, 0x28, 0x5E, 0x00])) = some (0x00,
      [0x65, 0x80, 0xA8, 0x62, 0x83, 0x69, 0x1D].map some) := by decide +kernel
theorem test_fecenc_last_bit : see (fun t => (t.csr, (bytes t).drop 19))
    (exec .fecenc { framed [0, 0, 0, 0, 0, 0, 0x80] with csr := 0xFF }) = some (0x01,
      [0, 0, 0, 0, 0, 0, 0x80].map some) := by decide +kernel
theorem test_ilv : see (fun t => (bytes t).drop 12)
    (exec .ilv (framed [0, 1, 2, 3, 4, 5, 6, 7, 8, 9, 0xA, 0xB, 0xC, 0xD])) = some
      ([0x00, 0x48, 0x30, 0x04, 0x0C, 0x1A, 0x0A, 0x07, 0x01, 0x05, 0x03, 0xC0, 0x00, 0xA1].map some) := by
  decide
theorem test_ilv_unwritten : see (fun t => t.fault.uninit) (exec .ilv (framed [0, 1])) = some true := by decide
theorem test_diff : see (fun t => (t.dprev, bytes t)) (exec .diff { full with dprev := true }) =
    some (true, some 0x80 :: List.replicate 25 (some 0x00)) := by decide
theorem test_encode_packet : see bytes (exec (.encode 0x01 0x00 0x1234 false) idle0) =
    some ([0xFF, 0xFF, 0xFF, 0xFF, 0xFF, 0xFF, 0xFF, 0xFB, 0x72, 0x40, 0x99, 0xA7, 0x1A, 0x99, 0xEB, 0x27,
      0xFF, 0x02, 0x7A, 0xFF, 0xFF, 0xE3, 0x58, 0x1B, 0xED, 0xC3].map some) := by decide +kernel
theorem test_encode_null : see (fun t => (t.res, t.pkt)) (exec (.encode 0x01 0x00 0x1234 true) idle0) =
    some (some 0, []) := by decide
theorem test_pktwr : see (fun t => (bytes t).drop 25) (exec (.pktwr 25 0xA5) idle0) = some [some 0xA5] := by
  decide
theorem test_pktwr_26 : see (fun t => (t.fault.illegal, t.pkt)) (exec (.pktwr 26 0) idle0) =
    some (true, []) := by decide
theorem test_pktrd : see State.res (exec (.pktrd 3) full) = some (some 0x00000055) := by decide
theorem test_pktrd_unwritten : see (fun t => (t.res, t.fault.uninit)) (exec (.pktrd 4) idle0) =
    some (none, true) := by decide
/-- P4 row 2: MODE.query alone, then RES = 0. -/
theorem test_xmit_wrong_mode :
    see (fun t => (t.pos, t.phase, portCalls t.trace)) (exec (.xmit 26) (asked (.other 1) true full)) =
      some (.fail, .precheck, [⟨0, .modeQuery (.other 1)⟩]) := by decide
/-- P5: the first switch, to space, at S + c(0) - LEAD_TICKS. -/
theorem test_xmit_first_switch :
    see (fun t => (t.cur, t.tb, t.trace.head?)) (step (ahead 0 0 true 8)) =
      some (some false, some 11, some ⟨8, .toneSet 0⟩) := by decide
theorem test_postid : see (fun t => (t.pos, (bytes t).drop 24)) (exec (.postid 0x1234) (asked .analog true idle0)) =
    some (.txenQuery 26, [some 0xED, some 0xC3]) := by decide +kernel

/-! ## The machine around the commands -/

theorem test_fetch_runs : see State.crc (step (idle0.withFetchWord 64 0x0102)) = some 0x1021 := by decide
theorem test_illegal_word : see (fun t => (t.fault.illegal, t.res)) (step (idle0.withFetchWord 64 0)) =
    some (true, none) := by decide
/-- 95_test_vectors.md, reached(): across the wrap, and half a period late (R717). -/
theorem test_reached_wrap : reached cfgS 0x00000002 0xFFFFFFFE = true := by decide
theorem test_reached_half_period : reached cfgS 0x80000005 0x00000005 = false := by decide

/-! ## Witnesses: encoding and the step -/

theorem witness_DecodeIsBijection :
    (Instr.pktwr 25 0xFF).wellFormed = true ∧ decode 0x0000000000FF1920 = .ok (.pktwr 25 0xFF) := by decide
theorem witness_TableRowSelectsItsCommand :
    (⟨"PKTRD", 0x0000000000000021, 0xFFFFFFFFFFFF00FF⟩ : TableRow) ∈ opcodeTable := by decide
theorem witness_NoWordMatchesTwoRows :
    (⟨"XMIT", 0x0000000000000030, 0xFFFFFFFFFFFF00FF⟩ : TableRow) ∈ opcodeTable ∧
      (⟨"XMIT", 0x0000000000000030, 0xFFFFFFFFFFFF00FF⟩ : TableRow).selects 0x1A30 = true := by decide
/-- R305 (a). -/
theorem witness_IllegalWordOnlySetsIllegal_a :
    (offering (.issue 0x04)).offers (.issue 0x04) [] ∧
      (offering (.issue 0x04)).sequencerTurn (taken (offering (.issue 0x04))) ∧ illegalWord 0x04 :=
  ⟨⟨rfl, rfl, rfl⟩, offering_turn _, .inl (by decide)⟩
/-- R305 (b). -/
theorem witness_IllegalWordOnlySetsIllegal_b : illegalWord 0x8000000000000002 := .inr (.inl (by decide))
/-- R305 (c). -/
theorem witness_IllegalWordOnlySetsIllegal_c : illegalWord 0x0000010000000011 :=
  .inr (.inr (.inl ⟨.abu, by decide, by unfold unusedNonzero; decide⟩))
/-- R305 (d): the boundary index. -/
theorem witness_IllegalWordOnlySetsIllegal_d : illegalWord 0x0000000000001A20 :=
  .inr (.inr (.inr ⟨by decide, by decide⟩))
theorem witness_StepRunsDecodedInstruction_script :
    (offering (.issue 0x03)).offers (.issue 0x03) [] ∧ decode 0x03 = .ok .crcread ∧
      (offering (.issue 0x03)).sequencerTurn (taken (offering (.issue 0x03))) :=
  ⟨⟨rfl, rfl, rfl⟩, by decide, offering_turn _⟩
theorem witness_StepRunsDecodedInstruction_eager :
    (offeringEager (.issue 0x03)).offers (.issue 0x03) [] ∧ decode 0x03 = .ok .crcread ∧
      (offeringEager (.issue 0x03)).sequencerTurn (offeringEager (.issue 0x03)) :=
  ⟨⟨rfl, rfl, rfl⟩, by decide, eager_turn ⟨rfl, rfl⟩⟩
theorem witness_FetchedWordRunsNext : decode (BitVec.ofNat 64 (0x1A30 % 2 ^ 64)) = .ok (.xmit 26) := by decide
theorem witness_BusyBlockAcceptsNothing :
    (sending .unmute).phase ≠ .idle ∧
      see (fun t => t.pos) (step (sending .unmute)) = some .finish := by decide

/-! ## Witnesses: the packet buffer and the encoder -/

theorem witness_PktwrWritesOneByte : (25 : Byte).toNat ≤ 25 ∧ 25 < (26 : Byte).toNat := by decide
theorem witness_PktrdReadsOneByte :
    cellRead full.pkt (25 : Byte).toNat = some 0x55 ∧ cellRead idle0.pkt (25 : Byte).toNat = none ∧
      25 < (26 : Byte).toNat := by decide
theorem witness_FecencParityClosedForm : written (framed (List.replicate 7 0x01)).pkt 12 19 := by
  unfold written; decide
theorem witness_IlvPermutesPayloadBits : written (framed (List.replicate 14 0x01)).pkt 12 26 := by
  unfold written; decide
theorem witness_NineIlvsRestorePayload : full.pkt.wf ∧ written full.pkt 12 26 := by unfold written; decide
theorem witness_DiffCodesEachByte : written full.pkt 0 26 := by unfold written; decide
/-- One byte short, in each stage. -/
theorem witness_StagesCheckBeforeTheyWrite :
    ¬ written (framed (List.replicate 6 0x01)).pkt 12 19 ∧
      ¬ written (framed (List.replicate 13 0x01)).pkt 12 26 ∧
      ¬ written (holding (List.replicate 25 0x01)).pkt 0 26 := by unfold written; decide
theorem witness_FrameLeaderFecencIdempotent :
    full.pkt.wf ∧ see (fun t => t.csr) (exec .fecenc full) = some 0xAA ∧
      see (fun t => t.crc) (exec (.frame 0x01 0x00 0x1234) full) = some 0x6572 ∧
      see (fun t => (bytes t).take 1) (exec .leader full) = some [some 0x00] := by decide +kernel
/-- The two states differ in all but SYNC_PATTERN. -/
theorem witness_EncodeIsPure :
    full.pkt.wf ∧ (sending .idle).pkt.wf ∧ full.cfg.sync = (sending .idle).cfg.sync := by decide

/-! ## Witnesses: XMIT's preconditions -/

theorem witness_XmitQueriesModeFirst :
    (asked .analog true full).env.modeAns = .analog :: [] ∧ full.env.modeAns = [] := by decide
theorem witness_FailedPreconditionsLeaveHardwareAlone_mode :
    (asked (.other 1) true full).eager ∧ (asked (.other 1) true full).env.modeAns = .other 1 :: [] ∧
      RadioMode.other 1 ≠ .analog := by unfold State.eager; decide
theorem witness_FailedPreconditionsLeaveHardwareAlone_txen :
    (asked .analog false full).eager ∧ (asked .analog false full).env.modeAns = .analog :: [] ∧
      (asked .analog false full).env.txenAns = false :: [] := by unfold State.eager; decide
/-- Both ends of the range of bad lengths. -/
theorem witness_FailedPreconditionsLeaveHardwareAlone_length :
    (asked .analog true full).eager ∧ (asked .analog true full).env.modeAns = .analog :: [] ∧
      (asked .analog true full).env.txenAns = true :: [] ∧ (0 : Byte).toNat = 0 ∧ 26 < (27 : Byte).toNat := by
  unfold State.eager; decide
theorem witness_XmitOfUnwrittenPacketFaults :
    (asked .analog true (holding [0x55])).eager ∧
      (asked .analog true (holding [0x55])).env.modeAns = .analog :: [] ∧
      (asked .analog true (holding [0x55])).env.txenAns = true :: [] ∧ 1 ≤ (2 : Byte).toNat ∧
      (2 : Byte).toNat ≤ 26 ∧ ¬ written (asked .analog true (holding [0x55])).pkt 0 (2 : Byte).toNat := by
  unfold State.eager written; decide

/-! ## Witnesses: the transmitter's phases -/

theorem witness_BitstreamIsMsbFirst :
    (polled (sending (.cssGet 2))).pos = .cssGet 2 ∧
      (polled (sending (.cssGet 2))).sequencerTurn (taken (polled (sending (.cssGet 2)))) ∧
      1 ≤ (2 : Byte).toNat ∧ (2 : Byte).toNat ≤ 26 ∧
      written (polled (sending (.cssGet 2))).pkt 0 (2 : Byte).toNat :=
  ⟨rfl, polled_turn _, by unfold written; decide⟩
/-- The two failing length ranges at their ends, and a packet one byte short. -/
theorem witness_PrecheckCallByPlace :
    (polled (sending (.txenQuery 2))).sequencerTurn (taken (polled (sending (.txenQuery 2)))) ∧
      (polled (sending .fail)).sequencerTurn (taken (polled (sending .fail))) ∧
      (polled (sending (.cssGet 3))).sequencerTurn (taken (polled (sending (.cssGet 3)))) ∧
      (0 : Byte).toNat = 0 ∧ 26 < (27 : Byte).toNat ∧ 1 ≤ (3 : Byte).toNat ∧ (3 : Byte).toNat ≤ 26 ∧
      ¬ written (sending (.cssGet 3)).pkt 0 (3 : Byte).toNat :=
  ⟨polled_turn _, polled_turn _, polled_turn _, by unfold written; decide⟩
/-- `sending p` has every place p, a first symbol and a written packet. -/
theorem witness_ArmingCallByPlace (p : Pos) :
    (polled (sending p)).sequencerTurn (taken (polled (sending p))) ∧ (polled (sending p)).pos = p ∧
      (polled (sending p)).sym[0]? = some true ∧ written (polled (sending p)).pkt 0 (2 : Byte).toNat :=
  ⟨polled_turn _, rfl, show (bitstream [0xA5, 0x0F])[0]? = some true by decide, by
    show written (holding [0xA5, 0x0F]).pkt 0 (2 : Byte).toNat
    unfold written; decide⟩

/-- The answers of P5's arming calls. -/
def arming : State :=
  { sending (.cssGet 2) with
    env := { Env.quiet with
      cssAns := [.other 7], feReadAns := [(true, 0x1234)], feWriteAns := [true], ampAns := [false] } }

theorem witness_ArmingCallsInOrder :
    arming.pos = .cssGet 2 ∧ arming.eager ∧ 1 ≤ (2 : Byte).toNat ∧ (2 : Byte).toNat ≤ 26 ∧
      written arming.pkt 0 (2 : Byte).toNat ∧ arming.env.cssAns = .other 7 :: [] ∧
      arming.env.feReadAns = (true, 0x1234) :: [] ∧ arming.env.feWriteAns = true :: [] ∧
      arming.env.ampAns = false :: [] := by unfold State.eager written; decide
theorem witness_SettleTargetIsLeadAfterTick :
    (polled (sending .settle)).pos = .settle ∧
      (polled (sending .settle)).sequencerTurn (taken (polled (sending .settle))) := ⟨rfl, polled_turn _⟩
/-- One tick before the settle target, by the script and under the eager schedule. -/
theorem witness_WaitHoldsTheSequencer_settle :
    (sending .firstSymbol).tb = some 3 ∧ reached cfgS 2 3 = false ∧
      ({ sending .firstSymbol with tick := 2 } : State).eager ∧
      ¬ (polled { sending .firstSymbol with tick := 2 }).eager ∧
      (polled { sending .firstSymbol with tick := 2 }).sequencerTurn
        (taken (polled { sending .firstSymbol with tick := 2 })) :=
  ⟨rfl, by decide, ⟨rfl, rfl⟩, by unfold State.eager; decide, polled_turn _⟩
/-- One tick before the write-ahead point of symbol 0. -/
theorem witness_WaitHoldsTheSequencer_writeAhead :
    (ahead 0 0 true 7).pos = .writeAhead ∧ (ahead 0 0 true 7).tb = some 11 ∧
      reached cfgS 7 (tickSub cfgS 11 cfgS.leadTicks) = false ∧ (ahead 0 0 true 7).eager := by
  unfold State.eager; decide
theorem witness_WaitHoldsTheSequencer_boundary :
    (inSymbol 0 0 false 10).pos = .boundary ∧ (inSymbol 0 0 false 10).tb = some 11 ∧
      reached (inSymbol 0 0 false 10).cfg (inSymbol 0 0 false 10).tick 11 = false ∧
      (inSymbol 0 0 false 10).eager := by unfold State.eager; decide

/-- The mid-symbol states meet the invariant. -/
theorem inSymbol_inv {n : Nat} {p : Fin 3} {cur : Bool} {now : Nat} (hn : n < 16) (hp : p.val = n % 3)
    (hb : symbolEnd n < 1000) (ht : now < 2 ^ 32)
    (hc : some cur = (bitstream [0xA5, 0x0F])[min (n + 1) 15]?) : (inSymbol n p cur now).Inv where
  pkt_wf := show (holding [0xA5, 0x0F]).pkt.wf by decide
  tick_lt := ht
  tb_lt := by
    intro t h
    have : t = 3 + symbolEnd n := by simpa [inSymbol, eq_comm] using h
    show t < 2 ^ 32
    omega
  phase_pos := rfl
  sym_le := show (16 : Nat) ≤ 208 by decide
  nsym_le := show (16 : Nat) ≤ 208 by decide
  sidx_le := show n ≤ 208 by omega
  packet := fun _ => ⟨show 1 ≤ 16 by decide, show 16 ≤ (bitstream [0xA5, 0x0F]).length by decide⟩
  css_saved := fun _ => rfl
  filter_saved := fun _ => .inr ⟨rfl, rfl⟩
  amp_saved := fun _ => rfl
  tb_set := fun _ => rfl
  first_tone := fun _ h => absurd (show 15 ≤ 13 from h) (by decide)
  in_symbol := fun h => Pos.noConfusion (show Pos.boundary = Pos.writeAhead from h)
  in_symbols := fun _ => ⟨hn, hp, hc⟩

theorem ahead_inv {n : Nat} {p : Fin 3} {cur : Bool} {now : Nat} (hn : n < 16) (hp : p.val = n % 3)
    (hb : symbolEnd n < 1000) (ht : now < 2 ^ 32)
    (hc : some cur = (bitstream [0xA5, 0x0F])[n]?) : (ahead n p cur now).Inv where
  pkt_wf := show (holding [0xA5, 0x0F]).pkt.wf by decide
  tick_lt := ht
  tb_lt := by
    intro t h
    have : t = 3 + symbolEnd n := by simpa [ahead, eq_comm] using h
    show t < 2 ^ 32
    omega
  phase_pos := rfl
  sym_le := show (16 : Nat) ≤ 208 by decide
  nsym_le := show (16 : Nat) ≤ 208 by decide
  sidx_le := show n ≤ 208 by omega
  packet := fun _ => ⟨show 1 ≤ 16 by decide, show 16 ≤ (bitstream [0xA5, 0x0F]).length by decide⟩
  css_saved := fun _ => rfl
  filter_saved := fun _ => .inr ⟨rfl, rfl⟩
  amp_saved := fun _ => rfl
  tb_set := fun _ => rfl
  first_tone := fun _ h => absurd (show 14 ≤ 13 from h) (by decide)
  in_symbol := fun _ => ⟨hn, hp, hc⟩
  in_symbols := fun h => Pos.noConfusion (show Pos.writeAhead = Pos.boundary from h)

/-- `sending .firstSymbol` at a tick t meets the invariant. -/
theorem sending_firstSymbol_inv {now : Nat} {ms : List Move} (ht : now < 2 ^ 32) :
    ({ sending .firstSymbol with tick := now, env := { Env.quiet with moves := ms } } : State).Inv where
  pkt_wf := show (holding [0xA5, 0x0F]).pkt.wf by decide
  tick_lt := ht
  tb_lt := by
    intro t h
    have : t = 3 := by simpa [sending, eq_comm] using h
    show t < 2 ^ 32
    omega
  phase_pos := rfl
  sym_le := show (16 : Nat) ≤ 208 by decide
  nsym_le := show (16 : Nat) ≤ 208 by decide
  sidx_le := show (0 : Nat) ≤ 208 by decide
  packet := fun _ => ⟨show 1 ≤ 16 by decide, show 16 ≤ (bitstream [0xA5, 0x0F]).length by decide⟩
  css_saved := fun _ => rfl
  filter_saved := fun _ => .inr ⟨rfl, rfl⟩
  amp_saved := fun _ => rfl
  tb_set := fun _ => rfl
  first_tone := fun _ _ => show some true = (bitstream [0xA5, 0x0F])[0]? by decide
  in_symbol := fun h => Pos.noConfusion (show Pos.firstSymbol = Pos.writeAhead from h)
  in_symbols := fun h => Pos.noConfusion (show Pos.firstSymbol = Pos.boundary from h)

/-- The settle target at tick 3, and the end of symbol 0 at tick 11. -/
theorem witness_SymbolBeginsAtPassedWait :
    (polled (sending .firstSymbol)).sequencerTurn (taken (polled (sending .firstSymbol))) ∧
      reached cfgS 3 3 = true ∧ (inSymbol 0 0 false 11).sequencerTurn (inSymbol 0 0 false 11) ∧
      (inSymbol 0 0 false 11).tb = some 11 ∧ reached cfgS 11 11 = true ∧
      (inSymbol 0 0 false 11).sidx + 1 ≠ (inSymbol 0 0 false 11).nsym ∧
      (inSymbol 0 0 false 11).pidx.val = (inSymbol 0 0 false 11).sidx % 3 :=
  ⟨polled_turn _, by decide, eager_turn ⟨rfl, rfl⟩, by decide⟩
/-- At the write-ahead point of symbol 0, tick 8; symbol 1 of A5 differs from symbol 0. -/
theorem witness_FirstWriteAheadStepEffect :
    ({ sending .firstSymbol with
        tick := 8, env := { Env.quiet with moves := [.sequencer, .sequencer] } } : State).Inv ∧
      11 = (3 + 8) % 2 ^ cfgS.tickBits ∧ reached cfgS 8 3 = true ∧
      reached cfgS 8 (tickSub cfgS 11 cfgS.leadTicks) = true ∧
      (bitstream [0xA5, 0x0F])[1]? = some false :=
  ⟨sending_firstSymbol_inv (by decide), by decide⟩
/-- Symbol 1 at its write-ahead point, tick 16: symbol 2 has another tone. -/
theorem witness_WriteAheadStepEffect_switch :
    (ahead 1 1 false 16).Inv ∧ (ahead 1 1 false 16).sequencerTurn (ahead 1 1 false 16) ∧
      (ahead 1 1 false 16).tb = some 19 ∧ reached cfgS 16 (tickSub cfgS 19 cfgS.leadTicks) = true ∧
      (bitstream [0xA5, 0x0F])[2]? = some true :=
  ⟨ahead_inv (by decide) rfl (by decide) (by decide) (by decide), eager_turn ⟨rfl, rfl⟩, by decide⟩
/-- The last symbol has no next; symbol 13 of 0F is as symbol 12: no switch. -/
theorem witness_WriteAheadStepEffect_same :
    (ahead 15 0 true 133).Inv ∧ (ahead 12 0 true 111).Inv ∧ (15 : Nat) + 1 = 16 ∧
      reached cfgS 133 (tickSub cfgS (3 + symbolEnd 15) 3) = true ∧
      reached cfgS 111 (tickSub cfgS (3 + symbolEnd 12) 3) = true ∧
      (bitstream [0xA5, 0x0F])[13]? = (bitstream [0xA5, 0x0F])[12]? :=
  ⟨ahead_inv (by decide) rfl (by decide) (by decide) (by decide),
    ahead_inv (by decide) rfl (by decide) (by decide) (by decide), by decide⟩
/-- Both ends of the window of symbol 1: ticks 16 and 18. -/
theorem witness_SwitchStaysInsideItsSymbol :
    (ahead 1 1 false 16).Inv ∧ (ahead 1 1 false 18).Inv ∧
      11 = tickSub cfgS 19 (DUR.getD (1 % 3) 0) ∧
      see (fun t => (t.pos, t.tb, t.fault.late)) (step (ahead 1 1 false 16)) =
        some (.boundary, some 19, false) ∧
      see (fun t => (t.pos, t.tb, t.fault.late)) (step (ahead 1 1 false 18)) =
        some (.boundary, some 19, false) :=
  ⟨ahead_inv (by decide) rfl (by decide) (by decide) (by decide),
    ahead_inv (by decide) rfl (by decide) (by decide) (by decide), by decide⟩
/-- The tick at which the settle target 3 reads as in the future again, and that of the write-ahead point 16;
the poll that passes a wait and the write-ahead step after a stall. -/
theorem witness_StallSetsLateAtNextCheck :
    ({ sending .firstSymbol with
        tick := 0x80000002, env := { Env.quiet with moves := [.tick] } } : State).Inv ∧
      (ahead 1 1 false 0x8000000F).Inv ∧
      reached cfgS 0x80000002 3 = true ∧ reached cfgS ((0x80000002 + 1) % 2 ^ 32) 3 = false ∧
      reached cfgS 0x8000000F (tickSub cfgS 19 3) = true ∧
      reached cfgS ((0x8000000F + 1) % 2 ^ 32) (tickSub cfgS 19 3) = false ∧
      see (fun t => t.stalled) (moveStep .tick (ahead 1 1 false 0x8000000F)) = some true ∧
      see (fun t => (t.pos, t.stalled)) (step { sending .firstSymbol with stalled := true }) =
        some (.writeAhead, true) ∧
      see (fun t => (t.fault.late, t.stalled)) (step { ahead 1 1 false 16 with stalled := true }) =
        some (true, false) :=
  ⟨sending_firstSymbol_inv (by decide), ahead_inv (by decide) rfl (by decide) (by decide) (by decide),
    by decide⟩
/-- R717: a write-ahead wait polled in time passes although the boundary passed before reads as unreached. -/
theorem test_passed_wait_is_not_tested_again :
    reached cfgS 0x8000000C 11 = false ∧ see (fun t => t.pos) (step (ahead 1 1 false 0x8000000C)) =
      some .boundary := by decide
/-- The last distance that is reached and the first that is not. -/
theorem witness_ReachedForHalfAPeriod :
    0x7FFFFFFF < 2 ^ cfgS.tickBits ∧ 0x80000000 < 2 ^ cfgS.tickBits ∧
      reached cfgS ((5 + 0x7FFFFFFF) % 2 ^ 32) 5 = true ∧
      reached cfgS ((5 + 0x80000000) % 2 ^ 32) 5 = false := by decide

/-- After the last symbol's end, with the statuses of the filter read and the amplifier as given. -/
def ending (ok on : Bool) : State :=
  { inSymbol 15 0 true 136 with
    savFiltOk := some ok, savAmpOn := some on, env := { Env.quiet with feWriteAns := [true] } }

theorem witness_RestoreCallsInOrder (ok on : Bool) :
    (ending ok on).pos = .boundary ∧ (ending ok on).eager ∧ (ending ok on).tb = some 136 ∧
      reached (ending ok on).cfg (ending ok on).tick 136 = true ∧
      (ending ok on).sidx + 1 = (ending ok on).nsym ∧ (ending ok on).savCss = some (.other 7) ∧
      (ending ok on).savFiltOk = some ok ∧ (ok = true → (ending ok on).savFilt = some 0x1234) ∧
      (ending ok on).savAmpOn = some on ∧ (ending ok on).env.feWriteAns = true :: [] := by
  refine ⟨rfl, ⟨rfl, rfl⟩, ?_, ?_, rfl, rfl, rfl, fun _ => rfl, rfl, rfl⟩
  · revert ok on; decide
  · revert ok on; decide

/-- The last symbol's end; every later place, with the saved registers set, either way. -/
theorem witness_RestoreCallByPlace (p : Pos) (ok on : Bool) :
    (ending ok on).sequencerTurn (ending ok on) ∧ (ending ok on).sidx + 1 = (ending ok on).nsym ∧
      ({ ending ok on with pos := p } : State).sequencerTurn { ending ok on with pos := p } ∧
      ({ ending ok on with pos := p } : State).savAmpOn = some on ∧
      ({ ending ok on with pos := p } : State).savFiltOk = some ok ∧
      ({ ending ok on with pos := p } : State).savFilt = some 0x1234 :=
  ⟨eager_turn ⟨rfl, rfl⟩, rfl, eager_turn ⟨rfl, rfl⟩, rfl, rfl, rfl⟩

/-! ## Witnesses: whole-machine rules -/

theorem witness_StepKeepsInvariant :
    (inSymbol 0 0 false 16).Inv ∧ see (fun t => t.sidx) (step (inSymbol 0 0 false 16)) = some 1 :=
  ⟨inSymbol_inv (by decide) rfl (by decide) (by decide) (by decide), by decide⟩

/-- The saved values of `sending` are those of its trace, in every place but one with an answer pending. -/
theorem sending_saved {p : Pos} (h : ∀ ok v, p ≠ .filterOff ok v) : (sending p).SavedFromQueries where
  css := fun _ => ⟨rfl, rfl⟩
  filterPending := fun ok v hp => absurd hp (h ok v)
  filter := fun _ => ⟨true, 0x1234, rfl, rfl, fun _ => rfl⟩
  amp := fun _ => ⟨rfl, rfl⟩

theorem witness_StepKeepsSavedValues :
    (sending .routeMic).SavedFromQueries ∧ see (fun t => t.pos) (step (sending .routeMic)) = some .cssRestore :=
  ⟨sending_saved (by simp), by decide⟩
theorem witness_RestoreWritesQueriedValues :
    (sending .cssRestore).SavedFromQueries ∧ (sending .filterRestore).SavedFromQueries ∧
      (sending .ampRestore).SavedFromQueries ∧ (sending .ampRestore).sequencerTurn (sending .ampRestore) :=
  ⟨sending_saved (by simp), sending_saved (by simp), sending_saved (by simp), eager_turn ⟨rfl, rfl⟩⟩
theorem witness_ArmedTransmissionGoesForward :
    (inSymbol 0 0 false 16).Inv ∧ 4 ≤ (inSymbol 0 0 false 16).pos.rank ∧
      (seqStep (inSymbol 0 0 false 16)).isSome = true :=
  ⟨inSymbol_inv (by decide) rfl (by decide) (by decide) (by decide), by decide⟩
/-- A step that is no reset, and one that is. -/
theorem witness_FaultBitsAreSticky :
    ¬ (polled (sending .mute)).resetNext ∧
      ({ idle0 with env := { Env.quiet with moves := [.reset] } } : State).resetNext ∧
      see (fun t => t.pos) (step (polled (sending .mute))) = some .settle :=
  ⟨by simp [State.resetNext, polled], .inl rfl, by decide⟩
theorem witness_TransmissionLeavesEncoderAlone :
    (polled (sending .mute)).pos ≠ .idle ∧ ¬ (polled (sending .mute)).resetNext ∧
      see (fun t => t.pos) (exec (.xmit 26) (asked .analog true full)) = some (.txenQuery 26) :=
  ⟨by decide, by simp [State.resetNext, polled], by decide⟩
theorem witness_OnlyTheTickCounterMovesTick :
    Move.reset ≠ .tick ∧ see (fun t => t.tick) (moveStep .reset full) = some 0 ∧
      see (fun t => t.tick) (exec .crcread full) = some 0 := by decide
theorem witness_ResetSetsEveryRegister :
    ({ sending .mute with env := { Env.quiet with moves := [.reset] } } : State).env.moves = .reset :: [] := rfl
theorem witness_HostReadOfEmptyResFaults :
    (offering .readRes).offers .readRes [] ∧
      (offering .readRes).sequencerTurn (taken (offering .readRes)) ∧ (offering .readRes).res = none ∧
      ({ offeringEager .readRes with res := some 1 } : State).offers .readRes [] ∧
      ({ offeringEager .readRes with res := some 1 } : State).sequencerTurn
        { offeringEager .readRes with res := some 1 } :=
  ⟨⟨rfl, rfl, rfl⟩, offering_turn _, rfl, ⟨rfl, rfl, rfl⟩, eager_turn ⟨rfl, rfl⟩⟩
/-- The hypotheses of XmitCompletesOnSchedule and XmitToneCallsAreTwoPlusChanges, at the longest packet. -/
theorem witness_XmitCompletesOnSchedule :
    (asked .analog true full).eager ∧ (asked .analog true full).env.modeAns = .analog :: [] ∧
      (asked .analog true full).env.txenAns = true :: [] ∧ 1 ≤ (26 : Byte).toNat ∧ (26 : Byte).toNat ≤ 26 ∧
      written (asked .analog true full).pkt 0 (26 : Byte).toNat := by unfold State.eager written; decide
/-- From reset: nothing written. -/
theorem witness_PostidCompletesOnSchedule :
    (asked .analog true idle0).eager ∧ (asked .analog true idle0).env.modeAns = .analog :: [] ∧
      (asked .analog true idle0).env.txenAns = true :: [] := by unfold State.eager; decide

end Sys2Proof.Tests
end

section
/-! SUPPORT. Ticks as words of TICK_BITS bits (00_scope.md R18), waits whose target is not reached
(46_transmitter.md R717), and the sizes of what a packet check writes. -/

namespace Sys2Proof.Machine

open Sys2Proof.Laws

/-! ## The tick difference (00_scope.md R18) -/

/-- `tickSub` is subtraction of words of TICK_BITS bits. -/
theorem tickSub_eq_toNat (p : Params) (a d : Nat) :
    tickSub p a d = (BitVec.ofNat p.tickBits a - BitVec.ofNat p.tickBits d).toNat := by
  simp [tickSub, tickSpan, BitVec.toNat_sub, Nat.add_comm]

/-- The distance back from d ticks after the target is d. -/
theorem tickSub_tickAdd_self (p : Params) (target : Nat) {d : Nat} (hd : d < tickSpan p) :
    tickSub p (tickAdd p target d) target = d := by
  have hword : BitVec.ofNat p.tickBits (tickAdd p target d) =
      BitVec.ofNat p.tickBits target + BitVec.ofNat p.tickBits d := by
    apply BitVec.eq_of_toNat_eq
    simp [tickAdd, tickSpan]
  rw [tickSub_eq_toNat, hword, BitVec.add_comm, BitVec.add_sub_cancel, BitVec.toNat_ofNat]
  exact Nat.mod_eq_of_lt hd

/-- A target is reached while the distance back to it is below half the period. -/
theorem reached_iff (p : Params) (tick target : Nat) :
    reached p tick target = true ↔ tickSub p tick target < 2 ^ (p.tickBits - 1) := by
  simp [reached]

/-- Settles O43: the difference's top bit is its sign, and it is clear below half the span. -/
theorem reachedIsSignedDifference : Obligations.ReachedIsSignedDifference := by
  intro p tick target
  have hspan : 2 ^ p.tickBits = 2 * 2 ^ (p.tickBits - 1) := tickSpan_eq p
  rw [reached_iff, tickSub_eq_toNat, BitVec.toInt_pos_iff]
  omega

/-- Settles O44: the distance back from d ticks after the target is d. -/
theorem reachedForHalfAPeriod : Obligations.ReachedForHalfAPeriod := by
  intro p target d hd
  have hdist : tickSub p ((target + d) % 2 ^ p.tickBits) target = d := tickSub_tickAdd_self p target hd
  rw [reached_iff, hdist]

/-! ## A wait whose target is not reached (46_transmitter.md R717) -/

/-- A wait whose target is not reached holds the sequencer: it has no step. -/
theorem seqStep_eq_none_of_not_reached {s : State} {tb : Nat} (hw : s.pos.waits = true) (htb : s.tb = some tb)
    (hr : reached s.cfg s.tick (waitPoint s.cfg s.pos tb) = false) : seqStep s = none := by
  have hpoll : ∀ k, pollWait s k = none := fun k => by rw [pollWait_eq htb, hr]; rfl
  have hpos : s.pos = .firstSymbol ∨ s.pos = .writeAhead ∨ s.pos = .boundary := by
    simpa [Pos.waits, or_assoc] using hw
  rcases hpos with h | h | h
  · simp [seqStep, xmitStep, h, firstSymbolStep, hpoll]
  · simp [seqStep, xmitStep, h, writeAheadStep, hpoll]
  · simp [seqStep, xmitStep, h, boundaryStep, hpoll]

/-- Outside the eager schedule, the turn of a sequencer that has no step is a poll without effect. -/
theorem step_of_held_turn {s s0 : State} (h : s.sequencerTurn s0) (he : ¬ s.eager) (hq : seqStep s0 = none) :
    step s = .next s0 := by
  rcases h with ⟨rest, hm, rfl⟩ | ⟨heager, -⟩ | ⟨hm, hf, hd, rfl⟩
  · rw [step_sequencer hm, hq]; rfl
  · exact absurd heager he
  · simp only [hm, hf] at hq
    simp [step, scheduledStep, hm, hf, hd, moveStep, hq]

/-- A tick that does not make a wait lapse changes TICK only. -/
theorem tickStep_of_not_lapses {s : State} (h : waitLapses (tickAdd s.cfg s.tick 1) s = false) :
    tickStep s = { s with tick := tickAdd s.cfg s.tick 1 } := by
  simp [tickStep, h]

/-- Settles O37: a held wait gives the sequencer no step, and its target, not reached now, cannot lapse. -/
theorem waitHoldsTheSequencer : Obligations.WaitHoldsTheSequencer := by
  intro s target htb hwait
  have hw : s.pos.waits = true := by
    rcases hwait with ⟨h | h, -⟩ | ⟨h, -⟩ <;> rw [h] <;> rfl
  have hr : reached s.cfg s.tick (waitPoint s.cfg s.pos target) = false := by
    rcases hwait with ⟨h | h, hr⟩ | ⟨h, hr⟩ <;> rw [h] <;> exact hr
  refine ⟨fun s0 hturn hne => ?_, fun ⟨hm, hf⟩ => ?_⟩
  · obtain ⟨e, rfl, -⟩ := sequencerTurn_env hturn
    exact step_of_held_turn hturn hne (seqStep_eq_none_of_not_reached (s := { s with env := e }) hw htb hr)
  · rw [step_eager hm hf, seqStep_eq_none_of_not_reached hw htb hr, Option.getD_none,
      tickStep_of_not_lapses (by rw [waitLapses_of_waits hw htb, hr]; rfl)]
    rfl

/-! ## The bitstream and SYM (46_transmitter.md R704) -/

theorem bitstream_length (bs : List Byte) : (bitstream bs).length = 8 * bs.length := by
  simp [bitstream, bitsMsb, List.length_flatMap, Nat.mul_comm]

theorem writeSym_length (new old : List Bool) : (writeSym new old).length = max new.length old.length := by
  simp only [writeSym, List.length_append, List.length_drop]
  omega

end Sys2Proof.Machine
end

section
/-! SUPPORT. Every step keeps `State.Inv`: how the invariant passes from one place of the sequence to the next,
then one lemma for each step of each agent. -/

namespace Sys2Proof.Machine

open Sys2Proof.Laws

/-! ## Building the invariant -/

/-- Before a transmission is armed the invariant asks only for the canonical buffer and the ranges. -/
theorem State.Inv.of_unarmed {s : State} (harm : s.pos.rank < 4) (hphase : s.phase = s.pos.phase)
    (hpkt : s.pkt.wf) (htick : s.tick < tickSpan s.cfg) (htb : ∀ t, s.tb = some t → t < tickSpan s.cfg)
    (hsym : s.sym.length ≤ s.cfg.symCap) (hnsym : s.nsym ≤ s.cfg.symCap) (hsidx : s.sidx ≤ s.cfg.symCap) :
    s.Inv where
  pkt_wf := hpkt
  tick_lt := htick
  tb_lt := htb
  phase_pos := hphase
  sym_le := hsym
  nsym_le := hnsym
  sidx_le := hsidx
  packet _ := by omega
  css_saved _ := by omega
  filter_saved _ := by omega
  amp_saved _ := by omega
  tb_set _ := by omega
  first_tone _ := by omega
  in_symbol h := by rw [h] at harm; exact absurd harm (by decide)
  in_symbols h := by rw [h] at harm; exact absurd harm (by decide)

/-- The registers supply what the place `next` rests on and the place p does not. The defaults serve every
`next` that rests on nothing new. -/
structure State.Supplies (s : State) (p next : Pos) : Prop where
  packet : 4 ≤ next.rank → 4 ≤ p.rank ∨ (1 ≤ s.nsym ∧ s.nsym ≤ s.sym.length) := by simp [Pos.rank]
  css : 4 ≤ next.rank → 4 ≤ p.rank ∨ s.savCss.isSome = true := by simp [Pos.rank]
  filter : 7 ≤ next.rank → 7 ≤ p.rank ∨ s.savFiltOk = some false ∨
    (s.savFiltOk = some true ∧ s.savFilt.isSome = true) := by simp [Pos.rank]
  amp : 10 ≤ next.rank → 10 ≤ p.rank ∨ s.savAmpOn.isSome = true := by simp [Pos.rank]
  tb : 13 ≤ next.rank → 13 ≤ p.rank ∨ s.tb.isSome = true := by simp [Pos.rank]
  tone : 8 ≤ next.rank → next.rank ≤ 13 → (8 ≤ p.rank ∧ p.rank ≤ 13) ∨ s.cur = s.sym[0]? := by
    simp [Pos.rank]
  not_writeAhead : next ≠ .writeAhead := by simp
  not_boundary : next ≠ .boundary := by simp

/-- The sequence moves from the place p to one outside the symbols, whose PHASE is written. -/
theorem State.Inv.moveTo {s : State} (h : s.Inv) {p : Pos} (hp : s.pos = p) (next : Pos) {ph : Phase}
    (hphase : ph = next.phase) (hs : s.Supplies p next := by exact {}) :
    ({ s with phase := ph, pos := next } : State).Inv := by
  subst hp
  exact { h with
    phase_pos := hphase
    packet := fun hr => (hs.packet hr).elim h.packet id
    css_saved := fun hr => (hs.css hr).elim h.css_saved id
    filter_saved := fun hr => (hs.filter hr).elim h.filter_saved id
    amp_saved := fun hr => (hs.amp hr).elim h.amp_saved id
    tb_set := fun hr => (hs.tb hr).elim h.tb_set id
    first_tone := fun hr hr' => (hs.tone hr hr').elim (fun ⟨hlo, hhi⟩ => h.first_tone hlo hhi) id
    in_symbol := fun hw => absurd hw hs.not_writeAhead
    in_symbols := fun hw => absurd hw hs.not_boundary }

/-- PHASE at the place p already suits every place of the same phase. -/
theorem State.Inv.phase_at {s : State} (h : s.Inv) {p next : Pos} (hp : s.pos = p)
    (hnext : p.phase = next.phase) : s.phase = next.phase := by
  rw [h.phase_pos, hp, hnext]

/-- The sequence moves on within a phase. -/
theorem State.Inv.moveOn {s : State} (h : s.Inv) {p : Pos} (hp : s.pos = p) (next : Pos)
    (hs : s.Supplies p next := by exact {}) (hnext : p.phase = next.phase := by rfl) :
    ({ s with pos := next } : State).Inv :=
  h.moveTo hp next (h.phase_at hp hnext) hs

/-- XMIT and POSTID end. -/
theorem State.Inv.toIdle {s : State} (h : s.Inv) : ({ s with phase := .idle, pos := .idle } : State).Inv :=
  h.moveTo rfl .idle rfl

/-! ## Writes the invariant does not see -/

theorem State.Inv.logged {s : State} (h : s.Inv) (a : Act) : (logAct a s).Inv := { h with }

theorem State.Inv.withEnv {s : State} (h : s.Inv) (e : Env) : ({ s with env := e } : State).Inv := { h with }

theorem State.Inv.withRes {s : State} (h : s.Inv) (r : Option ResWord) : ({ s with res := r } : State).Inv :=
  { h with }

theorem State.Inv.withFault {s : State} (h : s.Inv) (f : FaultBits) : ({ s with fault := f } : State).Inv :=
  { h with }

theorem State.Inv.withStalled {s : State} (h : s.Inv) (b : Bool) : ({ s with stalled := b } : State).Inv :=
  { h with }

/-- The encoder's registers are free, but PKT has to stay canonical. -/
theorem State.Inv.withEncoder {s : State} (h : s.Inv) {m : Memory} (hm : m.wf) (crc : Half) (csr : Byte)
    (dprev : Bool) : ({ s with pkt := m, crc := crc, csr := csr, dprev := dprev } : State).Inv :=
  { h with pkt_wf := hm }

/-! ## Outcomes that keep the invariant -/

/-- If an outcome is a next state, that state meets the invariant. -/
def KeepsInv (o : Out) : Prop := ∀ t, o = .next t → t.Inv

theorem keepsInv_next {t : State} (h : t.Inv) : KeepsInv (.next t) := by
  rintro _ ⟨⟩
  exact h

section

variable {s : State}

theorem complete_keepsInv (h : s.Inv) : KeepsInv (complete s) := keepsInv_next (h.logged _)

theorem completeWith_keepsInv (h : s.Inv) (r : ResWord) : KeepsInv (completeWith r s) :=
  complete_keepsInv (h.withRes _)

theorem failWith_keepsInv (h : s.Inv) (k : FaultKind) : KeepsInv (failWith k s) := keepsInv_next (h.withFault _)

theorem completeXmit_keepsInv (h : s.Inv) (r : ResWord) : KeepsInv (completeXmit r s) :=
  completeWith_keepsInv h.toIdle r

theorem abortXmit_keepsInv (h : s.Inv) : KeepsInv (abortXmit s) := failWith_keepsInv h.toIdle _

theorem completeStage_keepsInv (h : s.Inv) {r : Option State} (hr : ∀ t, r = some t → t.Inv) :
    KeepsInv (completeStage r s) := by
  rcases completeStage_cases r s with ⟨t, ht, heq⟩ | ⟨-, heq⟩ <;> rw [heq]
  · exact complete_keepsInv (hr t ht)
  · exact failWith_keepsInv h _

theorem needValue_keepsInv {α : Type} (h : s.Inv) {o : Option α} {k : α → Out}
    (hk : ∀ a, o = some a → KeepsInv (k a)) : KeepsInv (needValue o s k) := by
  rcases needValue_cases o s k with ⟨a, ha, heq⟩ | ⟨-, heq⟩ <;> rw [heq]
  · exact hk a ha
  · exact abortXmit_keepsInv h

theorem pollWait_keepsInv (h : s.Inv) {k : Nat → Out} {o : Out} (ho : pollWait s k = some o)
    (hk : ∀ tb, s.tb = some tb → KeepsInv (k tb)) : KeepsInv o := by
  cases htb : s.tb with
  | none =>
    obtain rfl : abortXmit s = o := by simpa [pollWait, htb] using ho
    exact abortXmit_keepsInv h
  | some tb =>
    rw [pollWait_eq htb] at ho
    split at ho
    · obtain rfl := Option.some.inj ho
      exact hk tb htb
    · cases ho

/-! ## PRECHECK (46_transmitter.md R701 to R704) -/

theorem startXmit_keepsInv (h : s.Inv) (len : Byte) : KeepsInv (startXmit len s) := by
  refine keepsInv_next (State.Inv.logged ?_ _)
  split
  · exact (h.moveTo rfl (.txenQuery len) rfl).withEnv _
  · exact (h.moveTo rfl .fail rfl).withEnv _

theorem txenStep_keepsInv (h : s.Inv) {len : Byte} (hp : s.pos = .txenQuery len) :
    KeepsInv (txenStep len s) := by
  refine keepsInv_next (State.Inv.logged ?_ _)
  split
  · exact (h.moveOn hp (.cssGet len)).withEnv _
  · exact (h.moveOn hp .fail).withEnv _

/-- A1 saves the squelch setting once SYM holds the packet. -/
theorem cssGetStep_keepsInv (h : s.Inv) (hpacket : 1 ≤ s.nsym ∧ s.nsym ≤ s.sym.length) {len : Byte}
    (hp : s.pos = .cssGet len) : KeepsInv (cssGetStep s) := by
  have hsaved : ({ s with savCss := some (drawCss s.env).1, env := (drawCss s.env).2 } : State).Inv :=
    { h with css_saved := fun _ => rfl }
  exact keepsInv_next ((hsaved.moveTo hp .cssOff rfl
    { packet := fun _ => .inr hpacket, css := fun _ => .inr rfl }).logged _)

theorem packetStep_keepsInv (h : s.Inv) {len : Byte} (hp : s.pos = .cssGet len) :
    KeepsInv (packetStep len s) := by
  simp only [packetStep]
  split
  · exact completeXmit_keepsInv h 0
  · rename_i hpos
    split
    · exact completeXmit_keepsInv h 0
    · rename_i hfits
      split
      · exact abortXmit_keepsInv h
      · rename_i bs hbs
        have hlen : (writeSym (bitstream bs) s.sym).length = max (8 * zextA len) s.sym.length := by
          rw [writeSym_length, bitstream_length, (readBytes_eq_some.1 hbs).1]
        have hsym : (writeSym (bitstream bs) s.sym).length ≤ s.cfg.symCap :=
          hlen ▸ Nat.max_le.2 ⟨by omega, h.sym_le⟩
        have hnsym : 8 * zextA len ≤ s.cfg.symCap := by omega
        have hloaded : ({ s with sym := writeSym (bitstream bs) s.sym, nsym := 8 * zextA len } : State).Inv :=
          .of_unarmed (by simp [hp, Pos.rank]) h.phase_pos h.pkt_wf h.tick_lt h.tb_lt hsym hnsym h.sidx_le
        have hpacket : 1 ≤ 8 * zextA len ∧ 8 * zextA len ≤ (writeSym (bitstream bs) s.sym).length :=
          ⟨by omega, hlen ▸ Nat.le_max_left ..⟩
        exact cssGetStep_keepsInv hloaded hpacket hp

/-! ## ARMED (46_transmitter.md R705, R706) -/

/-- A port call without an answer changes only the place and the trace. -/
theorem callStep_keepsInv {next : Pos} (h : ({ s with pos := next } : State).Inv) (a : Act) :
    KeepsInv (callStep a next s) := keepsInv_next (h.logged a)

theorem feWriteStep_keepsInv {next : Pos} (h : ({ s with pos := next } : State).Inv) (v : Half) :
    KeepsInv (feWriteStep v next s) := keepsInv_next ((h.withEnv _).logged _)

theorem feReadStep_keepsInv (h : s.Inv) (hp : s.pos = .filterRead) : KeepsInv (feReadStep s) :=
  keepsInv_next (((h.moveOn hp (.filterOff _ _)).withEnv _).logged _)

/-- A2 saves the filter register before it is overwritten. -/
theorem filterOffStep_keepsInv (h : s.Inv) {ok : Bool} {v : Half} (hp : s.pos = .filterOff ok v) :
    KeepsInv (feWriteStep s.cfg.filterOffValue .firstTone (saveFilter ok v s)) := by
  have hfilter : (saveFilter ok v s).savFiltOk = some false ∨
      ((saveFilter ok v s).savFiltOk = some true ∧ (saveFilter ok v s).savFilt.isSome = true) := by
    cases ok <;> simp
  have hsaved : (saveFilter ok v s).Inv := { h with filter_saved := fun _ => hfilter }
  exact feWriteStep_keepsInv (hsaved.moveOn hp .firstTone { filter := fun _ => .inr hfilter }) _

/-- A3 sets the tone of symbol 0. -/
theorem firstToneStep_keepsInv (h : s.Inv) (hp : s.pos = .firstTone) : KeepsInv (firstToneStep s) := by
  refine needValue_keepsInv h fun b hb => ?_
  have hcur : ({ s with cur := some b } : State).Inv :=
    { h with
      first_tone := fun hr => by rw [hp] at hr; exact absurd hr (by decide)
      in_symbol := fun hw => by rw [hp] at hw; cases hw
      in_symbols := fun hw => by rw [hp] at hw; cases hw }
  exact callStep_keepsInv (hcur.moveOn hp .routeTone { tone := fun _ _ => .inr hb.symm }) _

/-- A5 saves the amplifier's state before it is enabled. -/
theorem ampQueryStep_keepsInv (h : s.Inv) (hp : s.pos = .ampQuery) : KeepsInv (ampQueryStep s) := by
  have hsaved : ({ s with savAmpOn := some (drawAmp s.env).1, env := (drawAmp s.env).2 } : State).Inv :=
    { h with amp_saved := fun _ => rfl }
  exact keepsInv_next ((hsaved.moveOn hp .ampEnable { amp := fun _ => .inr rfl }).logged _)

/-- A tick value in TB keeps the invariant at every place. -/
theorem State.Inv.withTb (h : s.Inv) {tb : Nat} (htb : tb < tickSpan s.cfg) :
    ({ s with tb := some tb } : State).Inv :=
  { h with
    tb_lt := by rintro _ ⟨⟩; exact htb
    tb_set := fun _ => rfl }

theorem settleStep_keepsInv (h : s.Inv) (hp : s.pos = .settle) : KeepsInv (settleStep s) :=
  keepsInv_next (((h.withTb (tickAdd_lt _ _ _)).moveOn hp .firstSymbol
    { tb := fun _ => .inr rfl }).withStalled _)

/-! ## TRANSMITTING (46_transmitter.md R707, R708) -/

/-- Symbol n begins: its tone is set, and TB is a tick value. -/
theorem State.Inv.toSymbol (h : s.Inv) (hrank : 13 ≤ s.pos.rank) {ph : Phase} (hphase : ph = .transmitting)
    {n tb : Nat} {i : Fin 3} (hn : n < s.nsym) (hi : i.val = n % 3) (hcur : s.cur = s.sym[n]?)
    (htb : tb < tickSpan s.cfg) :
    ({ s with phase := ph, sidx := n, pidx := i, tb := some tb, pos := .writeAhead } : State).Inv :=
  { h with
    tb_lt := by rintro _ ⟨⟩; exact htb
    phase_pos := hphase
    sidx_le := Nat.le_trans (Nat.le_of_lt hn) h.nsym_le
    packet := fun _ => h.packet (by omega)
    css_saved := fun _ => h.css_saved (by omega)
    filter_saved := fun _ => h.filter_saved (by omega)
    amp_saved := fun _ => h.amp_saved (by omega)
    tb_set := fun _ => rfl
    first_tone := fun _ hr => absurd hr (show ¬ 14 ≤ 13 by decide)
    in_symbol := fun _ => ⟨hn, hi, hcur⟩
    in_symbols := fun hw => by cases hw }

theorem firstSymbolStep_keepsInv (h : s.Inv) (hp : s.pos = .firstSymbol) {o : Out}
    (ho : firstSymbolStep s = some o) : KeepsInv o := by
  have hrank : s.pos.rank = 13 := by rw [hp]; rfl
  refine pollWait_keepsInv h ho fun start _ => keepsInv_next ?_
  exact h.toSymbol (by omega) rfl (h.packet (by omega)).1 rfl (h.first_tone (by omega) (by omega))
    (tickAdd_lt _ _ _)

/-- After the write-ahead step CUR is the next symbol, or the last one if there is no next. -/
theorem State.Inv.toBoundary (h : s.Inv) (hp : s.pos = .writeAhead) {cur : Option Bool}
    (hcur : cur = s.sym[min (s.sidx + 1) (s.nsym - 1)]?) (f : FaultBits) :
    ({ s with cur := cur, fault := f, pos := .boundary, stalled := false } : State).Inv := by
  obtain ⟨hsidx, hpidx, -⟩ := h.in_symbol hp
  have hrank : s.pos.rank = 14 := by rw [hp]; rfl
  exact { h with
    phase_pos := h.phase_at hp rfl
    packet := fun _ => h.packet (by omega)
    css_saved := fun _ => h.css_saved (by omega)
    filter_saved := fun _ => h.filter_saved (by omega)
    amp_saved := fun _ => h.amp_saved (by omega)
    tb_set := fun _ => h.tb_set (by omega)
    first_tone := fun _ hr => absurd hr (show ¬ 15 ≤ 13 by decide)
    in_symbol := fun hw => by cases hw
    in_symbols := fun _ => ⟨hsidx, hpidx, hcur⟩ }

/-- The write-ahead step leaves the next symbol in CUR, be it switched to or already there. -/
theorem symbolStep_keepsInv (h : s.Inv) (hp : s.pos = .writeAhead) (target : Nat) :
    KeepsInv (symbolStep target s) := by
  obtain ⟨hsidx, -, hcur⟩ := h.in_symbol hp
  have hlen := (h.packet (by rw [hp]; decide)).2
  simp only [symbolStep, markLate_eq]
  split
  · rename_i hnext
    have hmin : min (s.sidx + 1) (s.nsym - 1) = s.sidx + 1 := by omega
    have hb : s.sym[s.sidx + 1]? = some (s.sym[s.sidx + 1]) := List.getElem?_eq_getElem (by omega)
    have hc : s.cur = some (s.sym[s.sidx]) := hcur.trans (List.getElem?_eq_getElem (by omega))
    simp only [hb, hc, needValue_some]
    split
    · rename_i hbc
      exact keepsInv_next (h.toBoundary hp (by rw [hmin, hb, hbc]) _)
    · exact keepsInv_next ((h.toBoundary hp (by rw [hmin, hb]) _).logged _)
  · have hmin : min (s.sidx + 1) (s.nsym - 1) = s.sidx := by omega
    exact keepsInv_next (h.toBoundary hp (by rw [hmin, hcur]) _)

theorem writeAheadStep_keepsInv (h : s.Inv) (hp : s.pos = .writeAhead) {o : Out}
    (ho : writeAheadStep s = some o) : KeepsInv o :=
  pollWait_keepsInv h ho fun target _ => symbolStep_keepsInv h hp target

/-- Symbol SIDX + 1 begins, or after the last symbol the restore does. -/
theorem boundaryStep_keepsInv (h : s.Inv) (hp : s.pos = .boundary) {o : Out} (ho : boundaryStep s = some o) :
    KeepsInv o := by
  obtain ⟨hsidx, hpidx, hcur⟩ := h.in_symbols hp
  refine pollWait_keepsInv h ho fun start _ => ?_
  dsimp only
  split
  · have hmoved := h.moveTo hp .routeMic rfl
    exact keepsInv_next (State.Inv.logged
      (s := { advanceSymbol s with phase := .restoring, pos := .routeMic })
      { hmoved with
        sidx_le := Nat.le_trans hsidx h.nsym_le
        in_symbol := fun hw => by cases hw
        in_symbols := fun hw => by cases hw } _)
  · rename_i hlast
    have hlt : s.sidx + 1 < s.nsym := Nat.lt_of_le_of_ne hsidx hlast
    have hmin : min (s.sidx + 1) (s.nsym - 1) = s.sidx + 1 := by omega
    rw [hmin] at hcur
    have hnext : (s.pidx + 1).val = (s.sidx + 1) % 3 := by
      rw [Fin.val_add, hpidx]
      exact Nat.mod_add_mod ..
    exact keepsInv_next (h.toSymbol (by rw [hp]; decide) (h.phase_at hp (next := .writeAhead) rfl) hlt hnext
      hcur (tickAdd_lt _ _ _))

/-! ## RESTORING (46_transmitter.md R709, R710) -/

theorem cssRestoreStep_keepsInv (h : s.Inv) (hp : s.pos = .cssRestore) : KeepsInv (cssRestoreStep s) :=
  needValue_keepsInv h fun _ _ => callStep_keepsInv (h.moveOn hp .filterRestore) _

theorem filterRestoreStep_keepsInv (h : s.Inv) (hp : s.pos = .filterRestore) :
    KeepsInv (filterRestoreStep s) := by
  have hnext := h.moveOn hp .ampRestore
  refine needValue_keepsInv h fun ok _ => ?_
  split
  · exact needValue_keepsInv h fun v _ => feWriteStep_keepsInv hnext v
  · exact feWriteStep_keepsInv hnext _

theorem ampRestoreStep_keepsInv (h : s.Inv) (hp : s.pos = .ampRestore) : KeepsInv (ampRestoreStep s) := by
  refine needValue_keepsInv h fun on _ => ?_
  split
  · exact callStep_keepsInv (h.moveOn hp .finish) _
  · exact callStep_keepsInv (h.moveOn hp .unmute) _

/-! ## Each agent's move -/

/-- Inside XMIT or POSTID, place by place. -/
theorem xmitStep_keepsInv (h : s.Inv) {o : Out} (ho : xmitStep s = some o) : KeepsInv o := by
  cases hp : s.pos <;> simp only [xmitStep, hp, Option.some.injEq, reduceCtorEq] at ho
  case fail => exact ho ▸ completeXmit_keepsInv h 0
  case txenQuery len => exact ho ▸ txenStep_keepsInv h hp
  case cssGet len => exact ho ▸ packetStep_keepsInv h hp
  case cssOff => exact ho ▸ callStep_keepsInv (h.moveOn hp .filterRead) _
  case filterRead => exact ho ▸ feReadStep_keepsInv h hp
  case filterOff ok v => exact ho ▸ filterOffStep_keepsInv h hp
  case firstTone => exact ho ▸ firstToneStep_keepsInv h hp
  case routeTone => exact ho ▸ callStep_keepsInv (h.moveOn hp .ampQuery) _
  case ampQuery => exact ho ▸ ampQueryStep_keepsInv h hp
  case ampEnable => exact ho ▸ callStep_keepsInv (h.moveOn hp .mute) _
  case mute => exact ho ▸ callStep_keepsInv (h.moveOn hp .settle) _
  case settle => exact ho ▸ settleStep_keepsInv h hp
  case firstSymbol => exact firstSymbolStep_keepsInv h hp ho
  case writeAhead => exact writeAheadStep_keepsInv h hp ho
  case boundary => exact boundaryStep_keepsInv h hp ho
  case routeMic => exact ho ▸ callStep_keepsInv (h.moveOn hp .cssRestore) _
  case cssRestore => exact ho ▸ cssRestoreStep_keepsInv h hp
  case filterRestore => exact ho ▸ filterRestoreStep_keepsInv h hp
  case ampRestore => exact ho ▸ ampRestoreStep_keepsInv h hp
  case unmute => exact ho ▸ callStep_keepsInv (h.moveOn hp .finish) _
  case finish => exact ho ▸ completeXmit_keepsInv h 1

/-- The encoder's stages write its own registers only. -/
theorem fecStage_frame {t : State} (ht : fecStage s = some t) :
    t = { s with pkt := t.pkt, crc := t.crc, csr := t.csr, dprev := t.dprev } := by
  obtain ⟨_, -, rfl⟩ := fecStage_eq_some ht
  rfl

theorem ilvStage_frame {t : State} (ht : ilvStage s = some t) :
    t = { s with pkt := t.pkt, crc := t.crc, csr := t.csr, dprev := t.dprev } := by
  obtain ⟨_, -, rfl⟩ := ilvStage_eq_some ht
  rfl

theorem diffStage_frame {t : State} (ht : diffStage s = some t) :
    t = { s with pkt := t.pkt, crc := t.crc, csr := t.csr, dprev := t.dprev } := by
  obtain ⟨_, -, rfl⟩ := diffStage_eq_some ht
  rfl

theorem encodeStages_frame {t : State} {op arg : Byte} {unit : Half}
    (ht : encodeStages op arg unit s = some t) :
    t = { s with pkt := t.pkt, crc := t.crc, csr := t.csr, dprev := t.dprev } := by
  unfold encodeStages at ht
  split at ht
  · cases ht
  · rename_i u hu
    split at ht
    · cases ht
    · rename_i v hv
      rw [diffStage_frame ht, ilvStage_frame hv, fecStage_frame hu]
      rfl

theorem State.Inv.of_encoder_frame (h : s.Inv) {t : State}
    (ht : t = { s with pkt := t.pkt, crc := t.crc, csr := t.csr, dprev := t.dprev }) (hwf : t.pkt.wf) : t.Inv :=
  ht ▸ h.withEncoder hwf _ _ _

theorem encodeStages_inv (h : s.Inv) {t : State} {op arg : Byte} {unit : Half}
    (ht : encodeStages op arg unit s = some t) : t.Inv :=
  h.of_encoder_frame (encodeStages_frame ht) (encodeStages_keeps_wf h.pkt_wf ht)

/-- Every command's first step. -/
theorem exec_keepsInv (h : s.Inv) (i : Instr) : KeepsInv (exec i s) := by
  cases i with
  | crcinit => exact complete_keepsInv (h.withEncoder h.pkt_wf _ _ _)
  | crcbyte b => exact complete_keepsInv (h.withEncoder h.pkt_wf _ _ _)
  | crcread => exact completeWith_keepsInv h _
  | leader => exact complete_keepsInv (h.withEncoder (leaderStage_keeps_wf h.pkt_wf) _ _ _)
  | frame op arg unit => exact complete_keepsInv (h.withEncoder (frameStage_keeps_wf h.pkt_wf op arg unit) _ _ _)
  | fecenc => exact completeStage_keepsInv h fun _ ht =>
      h.of_encoder_frame (fecStage_frame ht) (fecStage_keeps_wf h.pkt_wf ht)
  | ilv => exact completeStage_keepsInv h fun _ ht =>
      h.of_encoder_frame (ilvStage_frame ht) (ilvStage_keeps_wf h.pkt_wf ht)
  | diff => exact completeStage_keepsInv h fun _ ht =>
      h.of_encoder_frame (diffStage_frame ht) (diffStage_keeps_wf h.pkt_wf ht)
  | encode op arg unit null =>
    simp only [exec, execEncode]
    split
    · exact completeWith_keepsInv h _
    · split
      · rename_i t ht
        exact completeWith_keepsInv (encodeStages_inv h ht) _
      · exact failWith_keepsInv h _
  | pktwr i v =>
    simp only [exec, execPktwr]
    split
    · rename_i m hm
      exact complete_keepsInv (h.withEncoder (memWrite_keeps_wf h.pkt_wf hm) _ _ _)
    · exact failWith_keepsInv h _
  | pktrd i =>
    simp only [exec, execPktrd]
    split
    · exact completeWith_keepsInv h _
    · exact failWith_keepsInv h _
  | xmit len => exact startXmit_keepsInv h len
  | postid unit =>
    simp only [exec, execPostid]
    split
    · rename_i t ht
      exact startXmit_keepsInv ((encodeStages_inv h ht).withRes _) _
    · exact failWith_keepsInv h _

theorem hostStep_keepsInv (h : s.Inv) (a : HostAct) : KeepsInv (hostStep a s) := by
  cases a with
  | issue w =>
    simp only [hostStep, acceptWord]
    split
    · exact exec_keepsInv (h.logged _) _
    · exact failWith_keepsInv (h.logged _) _
  | readRes =>
    simp only [hostStep, hostReadRes]
    split
    · exact keepsInv_next h
    · exact failWith_keepsInv h _

theorem portStep_keepsInv (h : s.Inv) {o : Out} (ho : portStep s = some o) : KeepsInv o := by
  unfold portStep at ho
  split at ho
  · cases ho
  · obtain rfl := Option.some.inj ho
    exact hostStep_keepsInv (h.withEnv _) _

theorem seqStep_keepsInv (h : s.Inv) {o : Out} (ho : seqStep s = some o) : KeepsInv o := by
  unfold seqStep at ho
  split at ho
  · split at ho
    · exact portStep_keepsInv h ho
    · cases ho
  · exact xmitStep_keepsInv h ho

theorem tickStep_inv (h : s.Inv) : (tickStep s).Inv := { h with tick_lt := tickAdd_lt _ _ _ }

theorem resetBlock_inv (h : s.Inv) : (resetBlock s).Inv :=
  .of_unarmed (show Pos.rank .idle < 4 by decide) rfl reset_pkt_wf h.tick_lt (by simp) (Nat.zero_le _)
    (Nat.zero_le _) (Nat.zero_le _)

end

/-- Settles O49: the tick counter, the reset, the sequencer's step and a poll without effect each keep it. -/
theorem stepKeepsInvariant : Obligations.StepKeepsInvariant := by
  intro s t h ht
  obtain ⟨e, -, hs | hs | ⟨o, ho, hs⟩ | ⟨-, hs⟩⟩ := step_cases s
  · exact keepsInv_next (tickStep_inv (h.withEnv e)) t (hs ▸ ht)
  · exact keepsInv_next (resetBlock_inv (h.withEnv e)) t (hs ▸ ht)
  · exact seqStep_keepsInv (h.withEnv e) ho t (hs ▸ ht)
  · exact keepsInv_next (h.withEnv e) t (hs ▸ ht)

end Sys2Proof.Machine
end

section
/-! SUPPORT. What one sequencer step of a command can do to TICK, the host's acts, the trace, the saved registers
and the sequencer's place, said once for every command; from it, the saved registers keep what the queries
answered, a busy block accepts nothing, and only the tick counter moves TICK. Then the port: which command an
offered word runs, and what a read of RES does. -/

namespace Sys2Proof.Machine

open Sys2Proof.Laws

/-! ## Answers drawn leave the host's acts (00_scope.md R19) -/

section draws

variable (e : Env)

@[simp] theorem drawMode_host : (drawMode e).2.host = e.host :=
  (draw_keeps _ _ _ e fun _ => ⟨rfl, rfl, rfl⟩).1

@[simp] theorem drawTxen_host : (drawTxen e).2.host = e.host :=
  (draw_keeps _ _ _ e fun _ => ⟨rfl, rfl, rfl⟩).1

@[simp] theorem drawCss_host : (drawCss e).2.host = e.host :=
  (draw_keeps _ _ _ e fun _ => ⟨rfl, rfl, rfl⟩).1

@[simp] theorem drawFeRead_host : (drawFeRead e).2.host = e.host :=
  (draw_keeps _ _ _ e fun _ => ⟨rfl, rfl, rfl⟩).1

@[simp] theorem drawFeWrite_host : (drawFeWrite e).2.host = e.host :=
  (draw_keeps _ _ _ e fun _ => ⟨rfl, rfl, rfl⟩).1

@[simp] theorem drawAmp_host : (drawAmp e).2.host = e.host :=
  (draw_keeps _ _ _ e fun _ => ⟨rfl, rfl, rfl⟩).1

end draws

/-! ## What a sequencer step can do -/

/-- The queries whose answers a transmission saves (46_transmitter.md R705). -/
def Act.isSavedQuery : Act → Bool
  | .cssGet _ => true
  | .feRead _ _ _ => true
  | .ampQuery _ _ => true
  | _ => false

/-- An act a command logs without saving an answer: no acceptance of a word and no query whose answer is saved. -/
def Act.isPlain (a : Act) : Prop := a.isSavedQuery = false ∧ ∀ w, a ≠ .accepted w

/-- TICK, the host's acts, the trace and the saved registers are the same in both states. -/
structure SameRecords (s t : State) : Prop where
  tick : t.tick = s.tick := by rfl
  host : t.env.host = s.env.host := by rfl
  trace : t.trace = s.trace := by rfl
  savCss : t.savCss = s.savCss := by rfl
  savFilt : t.savFilt = s.savFilt := by rfl
  savFiltOk : t.savFiltOk = s.savFiltOk := by rfl
  savAmpOn : t.savAmpOn = s.savAmpOn := by rfl

/-- A move from the place p to the place q passes no place where a query's answer is saved (ranks 4, 7 and 10) and
leaves no answer of FE.read pending. The defaults serve every two named places of which this is true. -/
structure SkipsSaves (p q : Pos) : Prop where
  css : 4 ≤ q.rank → 4 ≤ p.rank := by simp [Pos.rank]
  filter : 7 ≤ q.rank → 7 ≤ p.rank := by simp [Pos.rank]
  amp : 10 ≤ q.rank → 10 ≤ p.rank := by simp [Pos.rank]
  pending : ∀ ok v, q = .filterOff ok v → p = .filterOff ok v := by simp

theorem SkipsSaves.refl (p : Pos) : SkipsSaves p p := ⟨id, id, id, fun _ _ => id⟩

theorem SkipsSaves.to_idle (p : Pos) : SkipsSaves p .idle := {}

/-- Everything one sequencer step of a command can do, as far as TICK, the host's acts, the trace, the saved
registers and the place go (46_transmitter.md R705, R711). -/
inductive SeqEffect (s : State) : State → Prop where
  /-- A step that logs nothing and saves nothing. -/
  | silent {t : State} (hsame : SameRecords s t) (hplace : SkipsSaves s.pos t.pos) : SeqEffect s t
  /-- A step that logs a call or the completion and saves nothing. -/
  | logs {t : State} {a : Act} (ha : a.isPlain) (hsame : SameRecords s t) (hplace : SkipsSaves s.pos t.pos) :
    SeqEffect s (logAct a t)
  /-- A1's CSS.get, whose answer goes to SAV_CSS. -/
  | savesCss {t : State} {c : CssValue} (hsame : SameRecords { s with savCss := some c } t) (hplace : t.pos = .cssOff) :
    SeqEffect s (logAct (.cssGet c) t)
  /-- A2's FE.read, whose answer the place carries until the next call. -/
  | readsFilter {t : State} {idx : Nat} {ok : Bool} {v : Half} (hp : s.pos = .filterRead) (hsame : SameRecords s t)
      (hplace : t.pos = .filterOff ok v) : SeqEffect s (logAct (.feRead idx ok v) t)
  /-- A2's FE.write, which saves the pending answer first. -/
  | savesFilter {t : State} {ok : Bool} {v : Half} {a : Act} (hp : s.pos = .filterOff ok v) (ha : a.isPlain)
      (hsame : SameRecords (saveFilter ok v s) t) (hplace : t.pos = .firstTone) : SeqEffect s (logAct a t)
  /-- A5's AMP.query, whose answer goes to SAV_AMP_ON. -/
  | savesAmp {t : State} {mode : Nat} {on : Bool} (hp : s.pos = .ampQuery)
      (hsame : SameRecords { s with savAmpOn := some on } t) (hplace : t.pos = .ampEnable) :
    SeqEffect s (logAct (.ampQuery mode on) t)

namespace SeqEffect

variable {s t : State}

theorem tick_eq (h : SeqEffect s t) : t.tick = s.tick := by
  cases h with
  | silent hsame | logs _ hsame | savesCss hsame | readsFilter _ hsame | savesFilter _ _ hsame | savesAmp _ hsame =>
    exact hsame.tick

theorem host_eq (h : SeqEffect s t) : t.env.host = s.env.host := by
  cases h with
  | silent hsame | logs _ hsame | savesCss hsame | readsFilter _ hsame | savesFilter _ _ hsame | savesAmp _ hsame =>
    exact hsame.host

/-- At most one event is new, and it accepts no word. -/
theorem trace_cases (h : SeqEffect s t) :
    t.trace = s.trace ∨ ∃ e : Event, (∀ w, e.act ≠ .accepted w) ∧ t.trace = e :: s.trace := by
  cases h with
  | silent hsame => exact .inl hsame.trace
  | logs ha hsame => exact .inr ⟨_, ha.2, congrArg _ hsame.trace⟩
  | savesFilter _ ha hsame => exact .inr ⟨_, ha.2, congrArg _ hsame.trace⟩
  | savesCss hsame | readsFilter _ hsame | savesAmp _ hsame => exact .inr ⟨_, by simp, congrArg _ hsame.trace⟩

end SeqEffect

/-! ## Every command's steps have such an effect -/

/-- An outcome is a next state, with an effect of a sequencer step on s. -/
def HasEffect (s : State) (o : Out) : Prop := ∃ t, o = .next t ∧ SeqEffect s t

section

variable {s t : State}

theorem hasEffect_silent (hsame : SameRecords s t) (hplace : SkipsSaves s.pos t.pos) : HasEffect s (.next t) :=
  ⟨t, rfl, .silent hsame hplace⟩

theorem complete_hasEffect (hsame : SameRecords s t) (hplace : SkipsSaves s.pos t.pos) :
    HasEffect s (complete t) :=
  ⟨_, rfl, .logs ⟨rfl, by simp⟩ hsame hplace⟩

theorem completeWith_hasEffect (r : ResWord) (hsame : SameRecords s t) (hplace : SkipsSaves s.pos t.pos) :
    HasEffect s (completeWith r t) :=
  complete_hasEffect { hsame with } hplace

theorem failWith_hasEffect (k : FaultKind) (hsame : SameRecords s t) (hplace : SkipsSaves s.pos t.pos) :
    HasEffect s (failWith k t) :=
  hasEffect_silent { hsame with } hplace

theorem completeXmit_hasEffect (r : ResWord) : HasEffect s (completeXmit r s) :=
  completeWith_hasEffect r {} (.to_idle _)

theorem abortXmit_hasEffect (hsame : SameRecords s t) : HasEffect s (abortXmit t) :=
  failWith_hasEffect _ { hsame with } (.to_idle _)

theorem needValue_hasEffect {α : Type} {o : Option α} {k : α → Out} (hsame : SameRecords s t)
    (hk : ∀ a, HasEffect s (k a)) : HasEffect s (needValue o t k) := by
  rcases needValue_cases o t k with ⟨a, -, heq⟩ | ⟨-, heq⟩ <;> rw [heq]
  · exact hk a
  · exact abortXmit_hasEffect hsame

theorem pollWait_hasEffect {k : Nat → Out} {o : Out} (ho : pollWait s k = some o) (hk : ∀ tb, HasEffect s (k tb)) :
    HasEffect s o := by
  cases htb : s.tb with
  | none =>
    obtain rfl : abortXmit s = o := by simpa [pollWait, htb] using ho
    exact abortXmit_hasEffect {}
  | some tb =>
    rw [pollWait_eq htb] at ho
    split at ho
    · obtain rfl := Option.some.inj ho
      exact hk tb
    · cases ho

/-- A port call with no answer, after writes to other registers. -/
theorem callStep_hasEffect {p next : Pos} {a : Act} (hp : s.pos = p) (hsame : SameRecords s t := by exact {})
    (hplace : SkipsSaves p next := by exact {}) (ha : a.isPlain := by exact ⟨rfl, by simp⟩) :
    HasEffect s (callStep a next t) := by
  subst hp
  exact ⟨_, rfl, .logs ha { hsame with } hplace⟩

/-- FE.write's status is drawn and ignored. -/
theorem feWriteStep_hasEffect {p next : Pos} (v : Half) (hp : s.pos = p) (hplace : SkipsSaves p next := by exact {}) :
    HasEffect s (feWriteStep v next s) := by
  subst hp
  exact ⟨_, rfl, .logs ⟨rfl, by simp⟩ { host := drawFeWrite_host _ } hplace⟩

/-! ### PRECHECK (46_transmitter.md R701 to R704) -/

theorem startXmit_hasEffect (len : Byte) (hsame : SameRecords s t) : HasEffect s (startXmit len t) := by
  refine ⟨_, rfl, .logs ⟨rfl, by simp⟩ { hsame with host := (drawMode_host _).trans hsame.host } ?_⟩
  dsimp only
  split <;> exact {}

theorem txenStep_hasEffect (len : Byte) : HasEffect s (txenStep len s) := by
  refine ⟨_, rfl, .logs ⟨rfl, by simp⟩ { host := drawTxen_host _ } ?_⟩
  dsimp only
  split <;> exact {}

theorem packetStep_hasEffect (len : Byte) : HasEffect s (packetStep len s) := by
  simp only [packetStep]
  split
  · exact completeXmit_hasEffect 0
  · split
    · exact completeXmit_hasEffect 0
    · split
      · exact abortXmit_hasEffect {}
      · exact ⟨_, rfl, .savesCss { host := drawCss_host _ } rfl⟩

/-! ### ARMED (46_transmitter.md R705, R706) -/

theorem feReadStep_hasEffect (hp : s.pos = .filterRead) : HasEffect s (feReadStep s) :=
  ⟨_, rfl, .readsFilter hp { host := drawFeRead_host _ } rfl⟩

theorem filterOffStep_hasEffect {ok : Bool} {v : Half} (hp : s.pos = .filterOff ok v) :
    HasEffect s (feWriteStep s.cfg.filterOffValue .firstTone (saveFilter ok v s)) :=
  ⟨_, rfl, .savesFilter hp ⟨rfl, by simp⟩ { host := drawFeWrite_host _ } rfl⟩

theorem firstToneStep_hasEffect (hp : s.pos = .firstTone) : HasEffect s (firstToneStep s) :=
  needValue_hasEffect {} fun _ => callStep_hasEffect hp

theorem ampQueryStep_hasEffect (hp : s.pos = .ampQuery) : HasEffect s (ampQueryStep s) :=
  ⟨_, rfl, .savesAmp hp { host := drawAmp_host _ } rfl⟩

theorem settleStep_hasEffect (hp : s.pos = .settle) : HasEffect s (settleStep s) :=
  hasEffect_silent {} (hp ▸ {})

/-! ### TRANSMITTING (46_transmitter.md R707, R708) -/

theorem firstSymbolStep_hasEffect (hp : s.pos = .firstSymbol) {o : Out} (ho : firstSymbolStep s = some o) :
    HasEffect s o :=
  pollWait_hasEffect ho fun _ => hasEffect_silent {} (hp ▸ {})

theorem symbolStep_hasEffect (hp : s.pos = .writeAhead) (target : Nat) : HasEffect s (symbolStep target s) := by
  have hplace : SkipsSaves s.pos .boundary := hp ▸ {}
  simp only [symbolStep, markLate_eq]
  split
  · refine needValue_hasEffect {} fun b => needValue_hasEffect {} fun c => ?_
    split
    · exact hasEffect_silent {} hplace
    · exact ⟨_, rfl, .logs ⟨rfl, by simp⟩ {} hplace⟩
  · exact hasEffect_silent {} hplace

theorem writeAheadStep_hasEffect (hp : s.pos = .writeAhead) {o : Out} (ho : writeAheadStep s = some o) :
    HasEffect s o :=
  pollWait_hasEffect ho fun target => symbolStep_hasEffect hp target

theorem boundaryStep_hasEffect (hp : s.pos = .boundary) {o : Out} (ho : boundaryStep s = some o) :
    HasEffect s o := by
  refine pollWait_hasEffect ho fun start => ?_
  dsimp only
  split
  · exact callStep_hasEffect hp
  · exact hasEffect_silent {} (hp ▸ {})

/-! ### RESTORING (46_transmitter.md R709, R710) -/

theorem cssRestoreStep_hasEffect (hp : s.pos = .cssRestore) : HasEffect s (cssRestoreStep s) :=
  needValue_hasEffect {} fun _ => callStep_hasEffect hp

theorem filterRestoreStep_hasEffect (hp : s.pos = .filterRestore) : HasEffect s (filterRestoreStep s) := by
  refine needValue_hasEffect {} fun ok => ?_
  split
  · exact needValue_hasEffect {} fun v => feWriteStep_hasEffect v hp
  · exact feWriteStep_hasEffect _ hp

theorem ampRestoreStep_hasEffect (hp : s.pos = .ampRestore) : HasEffect s (ampRestoreStep s) := by
  refine needValue_hasEffect {} fun on => ?_
  split <;> exact callStep_hasEffect hp

/-! ### The commands -/

/-- Inside XMIT or POSTID, place by place. -/
theorem xmitStep_hasEffect {o : Out} (ho : xmitStep s = some o) : HasEffect s o := by
  cases hp : s.pos <;> simp only [xmitStep, hp, Option.some.injEq, reduceCtorEq] at ho
  case fail => exact ho ▸ completeXmit_hasEffect 0
  case txenQuery len => exact ho ▸ txenStep_hasEffect len
  case cssGet len => exact ho ▸ packetStep_hasEffect len
  case cssOff => exact ho ▸ callStep_hasEffect hp
  case filterRead => exact ho ▸ feReadStep_hasEffect hp
  case filterOff ok v => exact ho ▸ filterOffStep_hasEffect hp
  case firstTone => exact ho ▸ firstToneStep_hasEffect hp
  case routeTone => exact ho ▸ callStep_hasEffect hp
  case ampQuery => exact ho ▸ ampQueryStep_hasEffect hp
  case ampEnable => exact ho ▸ callStep_hasEffect hp
  case mute => exact ho ▸ callStep_hasEffect hp
  case settle => exact ho ▸ settleStep_hasEffect hp
  case firstSymbol => exact firstSymbolStep_hasEffect hp ho
  case writeAhead => exact writeAheadStep_hasEffect hp ho
  case boundary => exact boundaryStep_hasEffect hp ho
  case routeMic => exact ho ▸ callStep_hasEffect hp
  case cssRestore => exact ho ▸ cssRestoreStep_hasEffect hp
  case filterRestore => exact ho ▸ filterRestoreStep_hasEffect hp
  case ampRestore => exact ho ▸ ampRestoreStep_hasEffect hp
  case unmute => exact ho ▸ callStep_hasEffect hp
  case finish => exact ho ▸ completeXmit_hasEffect 1

/-- The encoder's stages write its own registers only. -/
theorem SameRecords.of_encoder_frame
    (ht : t = { s with pkt := t.pkt, crc := t.crc, csr := t.csr, dprev := t.dprev }) :
    SameRecords s t ∧ SkipsSaves s.pos t.pos := by
  rw [ht]
  exact ⟨{}, .refl _⟩

theorem completeStage_hasEffect {r : Option State}
    (hr : ∀ t, r = some t → t = { s with pkt := t.pkt, crc := t.crc, csr := t.csr, dprev := t.dprev }) :
    HasEffect s (completeStage r s) := by
  rcases completeStage_cases r s with ⟨t, ht, heq⟩ | ⟨-, heq⟩ <;> rw [heq]
  · obtain ⟨hsame, hplace⟩ := SameRecords.of_encoder_frame (hr t ht)
    exact complete_hasEffect hsame hplace
  · exact failWith_hasEffect _ {} (.refl _)

/-- Every command's first step, in any state. -/
theorem exec_hasEffect (i : Instr) (s : State) : HasEffect s (exec i s) := by
  cases i with
  | crcinit | crcbyte _ | leader | frame _ _ _ => exact complete_hasEffect {} (.refl _)
  | crcread => exact completeWith_hasEffect _ {} (.refl _)
  | fecenc => exact completeStage_hasEffect fun _ ht => fecStage_frame ht
  | ilv => exact completeStage_hasEffect fun _ ht => ilvStage_frame ht
  | diff => exact completeStage_hasEffect fun _ ht => diffStage_frame ht
  | encode op arg unit null =>
    simp only [exec, execEncode]
    split
    · exact completeWith_hasEffect _ {} (.refl _)
    · split
      · rename_i t ht
        obtain ⟨hsame, hplace⟩ := SameRecords.of_encoder_frame (encodeStages_frame ht)
        exact completeWith_hasEffect _ hsame hplace
      · exact failWith_hasEffect _ {} (.refl _)
  | pktwr i v =>
    simp only [exec, execPktwr]
    split
    · exact complete_hasEffect {} (.refl _)
    · exact failWith_hasEffect _ {} (.refl _)
  | pktrd i =>
    simp only [exec, execPktrd]
    split
    · exact completeWith_hasEffect _ {} (.refl _)
    · exact failWith_hasEffect _ {} (.refl _)
  | xmit len => exact startXmit_hasEffect len {}
  | postid unit =>
    simp only [exec, execPostid]
    split
    · rename_i t ht
      obtain ⟨hsame, -⟩ := SameRecords.of_encoder_frame (encodeStages_frame ht)
      exact startXmit_hasEffect _ { hsame with }
    · exact failWith_hasEffect _ {} (.refl _)

end

/-! ## The sequencer's turn -/

/-- What the port has done when a host act takes effect: the act has left the list, and a word it issued stands in
the trace (10_state.md R149, R150). -/
def State.Taken (s u : State) : Prop :=
  ∃ e : Env, u = { s with env := e } ∨ ∃ w, u = logAct (.accepted w) { s with env := e }

theorem hostStep_hasEffect (a : HostAct) (s : State) :
    ∃ u, (u = s ∨ ∃ w, u = logAct (.accepted w) s) ∧ HasEffect u (hostStep a s) := by
  cases a with
  | issue w =>
    refine ⟨logAct (.accepted w) s, .inr ⟨w, rfl⟩, ?_⟩
    simp only [hostStep, acceptWord]
    split
    · exact exec_hasEffect _ _
    · exact failWith_hasEffect _ {} (.refl _)
  | readRes =>
    refine ⟨s, .inl rfl, ?_⟩
    simp only [hostStep, hostReadRes]
    split
    · exact hasEffect_silent {} (.refl _)
    · exact failWith_hasEffect _ {} (.refl _)

/-- The sequencer's turn is a step of the command that executes, or takes the host's next act and runs it. -/
theorem seqStep_cases {s : State} {o : Out} (ho : seqStep s = some o) :
    HasEffect s o ∨
      (s.phase = .idle ∧ s.pos = .idle ∧ ∃ u, s.Taken u ∧ HasEffect u o) := by
  unfold seqStep at ho
  split at ho
  · rename_i hpos
    split at ho
    · rename_i hphase
      unfold portStep at ho
      split at ho
      · cases ho
      · rename_i a rest _
        obtain rfl := Option.some.inj ho
        obtain ⟨u, hu, heffect⟩ := hostStep_hasEffect a { s with env := { s.env with host := rest } }
        exact .inr ⟨hphase, hpos, u, ⟨_, hu⟩, heffect⟩
    · cases ho
  · exact .inl (xmitStep_hasEffect ho)

/-- The state a step leads to, agent by agent. -/
theorem step_next_cases {s t : State} (ht : step s = .next t) :
    ∃ e : Env, e.host = s.env.host ∧ (t = tickStep { s with env := e } ∨ t = resetBlock { s with env := e } ∨
      seqStep { s with env := e } = some (.next t) ∨ t = { s with env := e }) := by
  obtain ⟨e, he, hs | hs | ⟨o, ho, hs⟩ | ⟨-, hs⟩⟩ := step_cases s <;> rw [hs] at ht
  · exact ⟨e, he, .inl (Host.Outcome.next.inj ht).symm⟩
  · exact ⟨e, he, .inr (.inl (Host.Outcome.next.inj ht).symm)⟩
  · exact ⟨e, he, .inr (.inr (.inl (ht ▸ ho)))⟩
  · exact ⟨e, he, .inr (.inr (.inr (Host.Outcome.next.inj ht).symm))⟩

/-! ## The saved registers (46_transmitter.md R705, R718) -/

section

variable {s t : State}

theorem lastCss_cons_of_not_saved {e : Event} (h : e.act.isSavedQuery = false) (tr : List Event) :
    lastCss (e :: tr) = lastCss tr := by
  rw [lastCss]
  split
  · simp_all [Act.isSavedQuery]
  · rfl

theorem lastFeRead_cons_of_not_saved {e : Event} (h : e.act.isSavedQuery = false) (tr : List Event) :
    lastFeRead (e :: tr) = lastFeRead tr := by
  rw [lastFeRead]
  split
  · simp_all [Act.isSavedQuery]
  · rfl

theorem lastAmp_cons_of_not_saved {e : Event} (h : e.act.isSavedQuery = false) (tr : List Event) :
    lastAmp (e :: tr) = lastAmp tr := by
  rw [lastAmp]
  split
  · simp_all [Act.isSavedQuery]
  · rfl

/-- Before a transmission is armed no register is saved. -/
theorem State.SavedFromQueries.of_unarmed (harm : s.pos.rank < 4) : s.SavedFromQueries where
  css _ := by omega
  filterPending _ _ hp := by rw [hp] at harm; exact absurd harm (by simp [Pos.rank])
  filter _ := by omega
  amp _ := by omega

/-- Logging an act that answers none of the three queries. -/
theorem State.SavedFromQueries.logged (h : s.SavedFromQueries) {a : Act} (ha : a.isSavedQuery = false) :
    (logAct a s).SavedFromQueries where
  css := by rw [logAct_trace, lastCss_cons_of_not_saved ha]; exact h.css
  filterPending := by rw [logAct_trace, lastFeRead_cons_of_not_saved ha]; exact h.filterPending
  filter := by rw [logAct_trace, lastFeRead_cons_of_not_saved ha]; exact h.filter
  amp := by rw [logAct_trace, lastAmp_cons_of_not_saved ha]; exact h.amp

theorem State.SavedFromQueries.withEnv (h : s.SavedFromQueries) (e : Env) :
    ({ s with env := e } : State).SavedFromQueries :=
  { h with }

/-- A move that passes no save, with the same trace and saved registers. -/
theorem State.SavedFromQueries.moveOn (h : s.SavedFromQueries) (hsame : SameRecords s t)
    (hplace : SkipsSaves s.pos t.pos) : t.SavedFromQueries where
  css hr := by rw [hsame.savCss, hsame.trace]; exact h.css (hplace.css hr)
  filterPending ok v hp := by rw [hsame.trace]; exact h.filterPending ok v (hplace.pending ok v hp)
  filter hr := by rw [hsame.savFiltOk, hsame.savFilt, hsame.trace]; exact h.filter (hplace.filter hr)
  amp hr := by rw [hsame.savAmpOn, hsame.trace]; exact h.amp (hplace.amp hr)

/-- A1's save holds the answer just logged, and the later saves are still to come. -/
theorem savesCss_saved {c : CssValue} (hsame : SameRecords { s with savCss := some c } t)
    (hplace : t.pos = .cssOff) : (logAct (.cssGet c) t).SavedFromQueries where
  css _ := by simp [hsame.savCss, lastCss]
  filterPending := by simp [hplace]
  filter := by simp [hplace, Pos.rank]
  amp := by simp [hplace, Pos.rank]

/-- A2's read leaves the answer just logged in the place. -/
theorem readsFilter_saved (h : s.SavedFromQueries) (hp : s.pos = .filterRead) {idx : Nat} {ok : Bool} {v : Half}
    (hsame : SameRecords s t) (hplace : t.pos = .filterOff ok v) :
    (logAct (.feRead idx ok v) t).SavedFromQueries where
  css _ := by
    have hcss := h.css (by simp [hp, Pos.rank])
    simpa [hsame.savCss, hsame.trace, lastCss] using hcss
  filterPending := by simp [hplace, lastFeRead]
  filter := by simp [hplace, Pos.rank]
  amp := by simp [hplace, Pos.rank]

/-- A2's save takes the pending answer, which is the newest. -/
theorem savesFilter_saved (h : s.SavedFromQueries) {ok : Bool} {v : Half} (hp : s.pos = .filterOff ok v)
    (hsame : SameRecords (saveFilter ok v s) t) (hplace : t.pos = .firstTone) : t.SavedFromQueries where
  css _ := by
    have hcss := h.css (by simp [hp, Pos.rank])
    rwa [hsame.savCss, hsame.trace]
  filterPending := by simp [hplace]
  filter _ := by
    refine ⟨ok, v, ?_, hsame.savFiltOk, fun hok => ?_⟩
    · rw [hsame.trace]
      exact h.filterPending ok v hp
    · rw [hsame.savFilt, saveFilter_savFilt, if_pos hok]
  amp := by simp [hplace, Pos.rank]

/-- A5's save holds the answer just logged, beside those of A1 and A2. -/
theorem savesAmp_saved (h : s.SavedFromQueries) (hp : s.pos = .ampQuery) {mode : Nat} {on : Bool}
    (hsame : SameRecords { s with savAmpOn := some on } t) (hplace : t.pos = .ampEnable) :
    (logAct (.ampQuery mode on) t).SavedFromQueries where
  css _ := by
    have hcss := h.css (by simp [hp, Pos.rank])
    simpa [hsame.savCss, hsame.trace, lastCss] using hcss
  filterPending := by simp [hplace]
  filter _ := by
    have hfilter := h.filter (by simp [hp, Pos.rank])
    simpa [hsame.savFiltOk, hsame.savFilt, hsame.trace, lastFeRead] using hfilter
  amp _ := by simp [hsame.savAmpOn, lastAmp]

theorem SeqEffect.keepsSaved (heffect : SeqEffect s t) (h : s.SavedFromQueries) : t.SavedFromQueries := by
  cases heffect with
  | silent hsame hplace => exact h.moveOn hsame hplace
  | logs ha hsame hplace => exact (h.moveOn hsame hplace).logged ha.1
  | savesCss hsame hplace => exact savesCss_saved hsame hplace
  | readsFilter hp hsame hplace => exact readsFilter_saved h hp hsame hplace
  | savesFilter hp ha hsame hplace => exact (savesFilter_saved h hp hsame hplace).logged ha.1
  | savesAmp hp hsame hplace => exact savesAmp_saved h hp hsame hplace

/-- The port's bookkeeping saves nothing and answers no query. -/
theorem State.Taken.keepsSaved {u : State} (htaken : s.Taken u) (h : s.SavedFromQueries) : u.SavedFromQueries := by
  obtain ⟨e, rfl | ⟨w, rfl⟩⟩ := htaken
  · exact h.withEnv e
  · exact (h.withEnv e).logged rfl

theorem seqStep_keepsSaved (h : s.SavedFromQueries) (ho : seqStep s = some (.next t)) : t.SavedFromQueries := by
  rcases seqStep_cases ho with ⟨_, ⟨⟩, heffect⟩ | ⟨-, -, u, htaken, _, ⟨⟩, heffect⟩
  · exact heffect.keepsSaved h
  · exact heffect.keepsSaved (htaken.keepsSaved h)

theorem tickStep_saved (h : s.SavedFromQueries) : (tickStep s).SavedFromQueries := { h with }

theorem resetBlock_saved (s : State) : (resetBlock s).SavedFromQueries :=
  .of_unarmed (show Pos.rank .idle < 4 by decide)

end

/-- Settles O50: the sequencer's step saves each answer as it logs it, and no other agent writes a saved register
but the reset, which leaves the sequence. -/
theorem stepKeepsSavedValues : Obligations.StepKeepsSavedValues := by
  intro s t h ht
  obtain ⟨e, -, rfl | rfl | ho | rfl⟩ := step_next_cases ht
  · exact tickStep_saved (h.withEnv e)
  · exact resetBlock_saved _
  · exact seqStep_keepsSaved (h.withEnv e) ho
  · exact h.withEnv e

/-! ## A busy block (10_state.md R149, 46_transmitter.md R719) -/

/-- Such a step takes no host act, and any acceptance in its trace was there before. -/
theorem SeqEffect.accepts_nothing {s t : State} (h : SeqEffect s t) :
    t.env.host = s.env.host ∧ ∀ e ∈ t.trace, e ∈ s.trace ∨ ∀ w, e.act ≠ .accepted w := by
  refine ⟨h.host_eq, fun e he => ?_⟩
  rcases h.trace_cases with htrace | ⟨e', hnew, htrace⟩ <;> rw [htrace] at he
  · exact .inl he
  · rcases List.mem_cons.1 he with rfl | hold
    · exact .inr hnew
    · exact .inl hold

/-- Settles O8: a busy block's step of the sequencer is one of the command that executes, and the port has none. -/
theorem busyBlockAcceptsNothing : Obligations.BusyBlockAcceptsNothing := by
  intro s t hbusy ht
  obtain ⟨e, he, rfl | rfl | ho | rfl⟩ := step_next_cases ht
  · exact ⟨he, fun _ => .inl⟩
  · exact ⟨he, fun _ => .inl⟩
  · rcases seqStep_cases ho with ⟨_, ⟨⟩, heffect⟩ | ⟨hphase, hpos, -⟩
    · obtain ⟨hhost, htrace⟩ := heffect.accepts_nothing
      exact ⟨hhost.trans he, htrace⟩
    · exact hbusy.elim (absurd hphase) (absurd hpos)
  · exact ⟨he, fun _ => .inl⟩

/-! ## TICK (10_state.md R151) -/

/-- A scripted move is made by the agent it names. -/
theorem step_scripted {s : State} {m : Move} {rest : List Move} (h : s.env.moves = m :: rest) :
    step s = moveStep m { s with env := { s.env with moves := rest } } := by
  simp [step, scheduledStep, h]

theorem State.Taken.tick_eq {s u : State} (h : s.Taken u) : u.tick = s.tick := by
  obtain ⟨e, rfl | ⟨w, rfl⟩⟩ := h <;> rfl

theorem seqStep_tick {s t : State} (ho : seqStep s = some (.next t)) : t.tick = s.tick := by
  rcases seqStep_cases ho with ⟨_, ⟨⟩, heffect⟩ | ⟨-, -, u, htaken, _, ⟨⟩, heffect⟩
  · exact heffect.tick_eq
  · exact heffect.tick_eq.trans htaken.tick_eq

/-- No agent but the tick counter moves TICK. -/
theorem moveStep_tick {m : Move} {s t : State} (hm : m ≠ .tick) (ht : moveStep m s = .next t) :
    t.tick = s.tick := by
  cases m with
  | tick => exact absurd rfl hm
  | reset =>
    obtain rfl := Host.Outcome.next.inj ht
    rfl
  | sequencer =>
    rw [moveStep] at ht
    cases ho : seqStep s with
    | some o => exact seqStep_tick (by rw [ho, ← ht, ho]; rfl)
    | none =>
      rw [ho] at ht
      obtain rfl := Host.Outcome.next.inj ht
      rfl

theorem exec_tick {i : Instr} {s t : State} (ht : exec i s = .next t) : t.tick = s.tick := by
  obtain ⟨t', heq, heffect⟩ := exec_hasEffect i s
  obtain rfl := Host.Outcome.next.inj (ht.symm.trans heq)
  exact heffect.tick_eq

/-- Outside the three waits no tick records a stall. -/
theorem tickStep_stalled_of_not_waits {s : State} (hfirst : s.pos ≠ .firstSymbol) (hahead : s.pos ≠ .writeAhead)
    (hboundary : s.pos ≠ .boundary) : (tickStep s).stalled = s.stalled := by
  have hwaits : s.pos.waits = false := by simp [Pos.waits, hfirst, hahead, hboundary]
  simp [waitLapses_of_not_waits hwaits]

/-- Settles O55: a scripted tick is `tickStep`; every other move, and every command, has an effect that keeps TICK. -/
theorem onlyTheTickCounterMovesTick : Obligations.OnlyTheTickCounterMovesTick := by
  refine ⟨fun s rest => ?_, fun _ _ _ => moveStep_tick, fun _ _ _ => exec_tick⟩
  let u : State := { s with env := { s.env with moves := rest } }
  exact ⟨tickStep u, (step_scripted rfl).trans rfl, rfl, tickStep_stalled_of_stalled (s := u),
    tickStep_stalled_of_not_waits (s := u)⟩

/-! ## The port's turn (10_state.md R149, R150) -/

/-- On the sequencer's turn a free port takes the host's next act off the list and runs it. -/
theorem step_of_offers {s s0 : State} {a : HostAct} {hs : List HostAct} (hoffer : s.offers a hs)
    (hturn : s.sequencerTurn s0) : step s = hostStep a { s0 with env := { s0.env with host := hs } } := by
  obtain ⟨hphase, hpos, hhost⟩ := hoffer
  obtain ⟨e, rfl, he⟩ := sequencerTurn_env hturn
  exact step_of_turn hturn (by simp [seqStep, portStep, hphase, hpos, he, hhost])

theorem acceptWord_of_decode {w : CmdWord} {i : Instr} (h : decode w = .ok i) (s : State) :
    acceptWord w s = exec i (logAct (.accepted w) s) := by
  rw [acceptWord, h]

/-- Settles O6: the port takes the word, logs it and runs its command. -/
theorem stepRunsDecodedInstruction : Obligations.StepRunsDecodedInstruction := by
  intro s s0 w i hs hoffer hturn hdecode
  rw [step_of_offers hoffer hturn, hostStep, acceptWord_of_decode hdecode]
  obtain ⟨e, rfl, -⟩ := sequencerTurn_env hturn
  rfl

/-- Settles O7: `withFetchWord` offers the word on a scripted turn of the sequencer. -/
theorem fetchedWordRunsNext : Obligations.FetchedWordRunsNext := by
  intro s nbits w i hdecode
  have hoffer : (s.withFetchWord nbits w).offers (.issue (BitVec.ofNat 64 (w % 2 ^ nbits))) s.env.host :=
    ⟨rfl, rfl, rfl⟩
  exact stepRunsDecodedInstruction _ _ _ i _ hoffer (.inl ⟨s.env.moves, rfl, rfl⟩) hdecode

/-- Settles O57: the port takes the read, which raises UNINIT when RES is empty. -/
theorem hostReadOfEmptyResFaults : Obligations.HostReadOfEmptyResFaults := by
  intro s s0 hs hoffer hturn
  rw [step_of_offers hoffer hturn]
  obtain ⟨e, rfl, -⟩ := sequencerTurn_env hturn
  refine ⟨fun hres => ?_, fun r hres => ?_⟩
  · simp [hostStep, hostReadRes, hres, failWith_eq, raiseFault, setFaultBit]
  · simp [hostStep, hostReadRes, hres]

/-! ## Reset (10_state.md R161, 70_reset_and_hazards.md R900) -/

/-- Settles O48: nothing is armed at reset, PKT is empty and TICK is cut to TICK_BITS bits. -/
theorem resetMeetsInvariant : Obligations.ResetMeetsInvariant :=
  .of_unarmed (by decide) rfl reset_pkt_wf (Nat.mod_lt _ (tickSpan_pos _)) (by simp) (Nat.zero_le _)
    (Nat.zero_le _) (Nat.zero_le _)

/-- Settles O56: a scripted reset is `resetBlock`, whose registers are those of `State.reset`. -/
theorem resetSetsEveryRegister : Obligations.ResetSetsEveryRegister := by
  intro s rest hmoves
  refine ⟨resetBlock { s with env := { s.env with moves := rest } }, step_scripted hmoves, ?_⟩
  simp [State.faultFree]

end Sys2Proof.Machine
end

section
/-! SUPPORT. One packet byte at a time (20_memory.md R202): what MemRead and MemWrite answer, and from it PKTWR and
PKTRD. Then runs of bytes: a run that a canonical buffer already holds writes nothing new, so a stage whose output
stands in the state leaves it as it is (20_memory.md R208). -/

namespace Sys2Proof.Machine

open Sys2Proof.Laws

/-! ## MemRead and MemWrite (20_memory.md R202) -/

section

variable {m : Memory} {i : Nat}

theorem memWrite_of_le (hi : i ≤ 25) (v : Byte) : memWrite i v m = .ok (cellWrite m i v) :=
  if_neg (by omega)

theorem memWrite_of_gt (hi : 25 < i) (v : Byte) : memWrite i v m = .error .illegal :=
  if_pos hi

theorem memRead_of_gt (hi : 25 < i) : memRead i m = .error .illegal :=
  if_pos hi

theorem memRead_of_some (hi : i ≤ 25) {v : Byte} (hv : cellRead m i = some v) : memRead i m = .ok v := by
  rw [memRead, if_neg (by omega), hv]

theorem memRead_of_none (hi : i ≤ 25) (hv : cellRead m i = none) : memRead i m = .error .uninit := by
  rw [memRead, if_neg (by omega), hv]

end

/-! ## PKTWR and PKTRD (40_packet_buffer.md R401, R402) -/

section

variable {s : State} {i : Byte}

theorem exec_pktwr_of_ok {v : Byte} {m : Memory} (hw : memWrite i.toNat v s.pkt = .ok m) :
    exec (.pktwr i v) s = complete { s with pkt := m } := by
  rw [exec, execPktwr, zextA, hw]

theorem exec_pktwr_of_error {v : Byte} {k : FaultKind} (hw : memWrite i.toNat v s.pkt = .error k) :
    exec (.pktwr i v) s = failWith k s := by
  rw [exec, execPktwr, zextA, hw]

theorem exec_pktrd_of_ok {v : Byte} (hr : memRead i.toNat s.pkt = .ok v) :
    exec (.pktrd i) s = completeWith (resOfByte v) s := by
  rw [exec, execPktrd, zextA, hr]

theorem exec_pktrd_of_error {k : FaultKind} (hr : memRead i.toNat s.pkt = .error k) :
    exec (.pktrd i) s = failWith k s := by
  rw [exec, execPktrd, zextA, hr]

end

/-- Settles O15: an index up to 25 passes MemWrite's check, which writes one cell; a larger one fails it. -/
theorem pktwrWritesOneByte : Obligations.PktwrWritesOneByte := by
  intro i v s
  refine ⟨fun hi => ?_, fun hi => exec_pktwr_of_error (memWrite_of_gt hi v)⟩
  refine ⟨_, exec_pktwr_of_ok (memWrite_of_le hi v), rfl, ?_, fun j hj => ?_⟩
  · rw [logAct_pkt, cellRead_cellWrite, if_pos rfl]
  · rw [logAct_pkt, cellRead_cellWrite, if_neg hj]

/-- Settles O16: MemRead answers the byte, UNINIT or ILLEGAL, and the command ends accordingly. -/
theorem pktrdReadsOneByte : Obligations.PktrdReadsOneByte := by
  intro i s
  refine ⟨fun v hi hv => ?_, fun hi hv => ?_, fun hi => ?_⟩
  · exact exec_pktrd_of_ok (memRead_of_some hi hv)
  · exact exec_pktrd_of_error (memRead_of_none hi hv)
  · exact exec_pktrd_of_error (memRead_of_gt hi)

/-! ## Runs of bytes -/

/-- A run read outside a run written is as before. -/
theorem readBytes_writeBytes_of_disjoint (m : Memory) {i j n : Nat} {bs : List Byte}
    (hdisj : i + n ≤ j ∨ j + bs.length ≤ i) : readBytes (writeBytes m j bs) i n = readBytes m i n := by
  have hcell : ∀ k, k < n → cellRead (writeBytes m j bs) (i + k) = cellRead m (i + k) := fun k hk => by
    rw [cellRead_writeBytes, if_neg (by omega)]
  cases hr : readBytes m i n with
  | none =>
    obtain ⟨k, hk, hnone⟩ := readBytes_eq_none.1 hr
    exact readBytes_eq_none.2 ⟨k, hk, (hcell k hk).trans hnone⟩
  | some cs =>
    obtain ⟨hlen, hcs⟩ := readBytes_eq_some.1 hr
    exact readBytes_eq_some.2 ⟨hlen, fun k hk => (hcell k hk).trans (hcs k hk)⟩

/-- Writing a run that a canonical buffer already holds does not change it. -/
theorem writeBytes_eq_self {m : Memory} (hwf : m.wf) {i : Nat} {bs : List Byte} (hi : i + bs.length ≤ 26)
    (hr : readBytes m i bs.length = some bs) : writeBytes m i bs = m := by
  refine eq_of_cellRead_eq (wf_writeBytes hwf hi) hwf fun j => ?_
  rw [cellRead_writeBytes]
  split
  · next hj =>
    obtain ⟨-, hcells⟩ := readBytes_eq_some.1 hr
    rw [← hcells (j - i) (by omega), Nat.add_sub_cancel' hj.1]
  · rfl

/-! ## A stage on a state that holds its output -/

section

variable {s t : State}

theorem leaderStage_eq_self (hwf : s.pkt.wf) (hpre : readBytes s.pkt 0 7 = some preambleBytes)
    (hsync : readBytes s.pkt 7 5 = some (syncBytes s.cfg)) : leaderStage s = s := by
  have hsyncLen := syncBytes_length s.cfg
  rw [leaderStage, writeBytes_eq_self hwf (by decide) hpre,
    writeBytes_eq_self hwf (by omega) (by rwa [hsyncLen])]

theorem frameStage_eq_self {op arg : Byte} {unit : Half} (hwf : s.pkt.wf)
    (hframe : readBytes s.pkt 12 7 = some (frameBytes op arg unit))
    (hcrc : s.crc = crc16 (frameHead op arg unit)) : frameStage op arg unit s = s := by
  rw [frameStage, writeBytes_eq_self hwf (by rw [frameBytes_length]; decide) hframe, ← hcrc]

/-- What FECENC does when the raw frame is written. -/
theorem fecStage_of_readBytes {ds : List Byte} (hds : readBytes s.pkt 12 7 = some ds) :
    fecStage s = some { s with pkt := writeBytes s.pkt 19 (fecBytes 0 ds).2, csr := (fecBytes 0 ds).1 } := by
  rw [fecStage, show FRAME_LEN = 7 from rfl, hds]

theorem fecStage_eq_none : fecStage s = none ↔ readBytes s.pkt 12 7 = none := by
  cases hds : readBytes s.pkt 12 7 with
  | none => simp [fecStage, FRAME_LEN, hds]
  | some ds => simp [fecStage_of_readBytes hds]

theorem fecStage_eq_self (hwf : s.pkt.wf) {ds : List Byte} (hds : readBytes s.pkt 12 7 = some ds)
    (hparity : readBytes s.pkt 19 7 = some (fecBytes 0 ds).2) (hcsr : s.csr = (fecBytes 0 ds).1) :
    fecStage s = some s := by
  obtain ⟨hlen, -⟩ := readBytes_eq_some.1 hparity
  rw [fecStage_of_readBytes hds, writeBytes_eq_self hwf (by omega) (by rwa [hlen]), ← hcsr]

/-! ## A stage leaves its output, and a log entry does not disturb it -/

/-- SYNC_PATTERN is written beside the preamble, not over it. -/
theorem leaderStage_logAct_leaderStage (hwf : s.pkt.wf) (a : Act) :
    leaderStage (logAct a (leaderStage s)) = logAct a (leaderStage s) := by
  refine leaderStage_eq_self (leaderStage_keeps_wf hwf) ?_ ?_
  · exact (readBytes_writeBytes_of_disjoint _ (.inl (by decide))).trans (readBytes_writeBytes _ 0 preambleBytes)
  · have hsync := readBytes_writeBytes (writeBytes s.pkt 0 preambleBytes) 7 (syncBytes s.cfg)
    rwa [syncBytes_length] at hsync

theorem frameStage_logAct_frameStage (hwf : s.pkt.wf) (op arg : Byte) (unit : Half) (a : Act) :
    frameStage op arg unit (logAct a (frameStage op arg unit s)) = logAct a (frameStage op arg unit s) :=
  frameStage_eq_self (frameStage_keeps_wf hwf op arg unit) (readBytes_writeBytes _ 12 _) rfl

/-- The parity bytes are written beside the raw frame, so a second run reads the same frame. -/
theorem fecStage_logAct_of_fecStage (hwf : s.pkt.wf) (ht : fecStage s = some t) (a : Act) :
    fecStage (logAct a t) = some (logAct a t) := by
  have hwft : t.pkt.wf := fecStage_keeps_wf hwf ht
  obtain ⟨ds, hds, rfl⟩ := fecStage_eq_some ht
  have hlen : (fecBytes 0 ds).2.length = 7 := (fecBytes_length 0 ds).trans (readBytes_eq_some.1 hds).1
  have hparity := readBytes_writeBytes s.pkt 19 (fecBytes 0 ds).2
  rw [hlen] at hparity
  exact fecStage_eq_self hwft ((readBytes_writeBytes_of_disjoint _ (.inl (by decide))).trans hds) hparity rfl

/-! ## Idempotency (20_memory.md R208) -/

theorem exec_leader_repeats (hwf : s.pkt.wf) (ht : exec .leader s = .next t) : exec .leader t = complete t := by
  obtain rfl := Host.Outcome.next.inj ht
  exact congrArg complete (leaderStage_logAct_leaderStage hwf _)

theorem exec_frame_repeats {op arg : Byte} {unit : Half} (hwf : s.pkt.wf)
    (ht : exec (.frame op arg unit) s = .next t) : exec (.frame op arg unit) t = complete t := by
  obtain rfl := Host.Outcome.next.inj ht
  exact congrArg complete (frameStage_logAct_frameStage hwf op arg unit _)

theorem exec_fecenc_of_some (ht : fecStage s = some t) : exec .fecenc s = complete t := by
  rw [exec, execFecenc, ht, completeStage]

theorem exec_fecenc_of_unwritten (hframe : readBytes s.pkt 12 7 = none) :
    exec .fecenc s = .next (raiseFault .uninit s) := by
  rw [exec, execFecenc, fecStage_eq_none.2 hframe, completeStage, failWith_eq]

/-- Over an unwritten raw frame FECENC raises UNINIT, and raises it again. -/
theorem exec_fecenc_repeats (hwf : s.pkt.wf) (ht : exec .fecenc s = .next t) :
    exec .fecenc t = complete t ∨ exec .fecenc t = .next t := by
  cases hstage : fecStage s with
  | some v =>
    obtain rfl := Host.Outcome.next.inj (ht.symm.trans (exec_fecenc_of_some hstage))
    exact .inl (exec_fecenc_of_some (fecStage_logAct_of_fecStage hwf hstage _))
  | none =>
    have hframe : readBytes s.pkt 12 7 = none := fecStage_eq_none.1 hstage
    obtain rfl := Host.Outcome.next.inj (ht.symm.trans (exec_fecenc_of_unwritten hframe))
    exact .inr (exec_fecenc_of_unwritten hframe)

end

/-- Settles O22: each stage's output already stands in the state it left, so writing it again changes nothing; FECENC
over an unwritten frame raises UNINIT both times. -/
theorem frameLeaderFecencIdempotent : Obligations.FrameLeaderFecencIdempotent := by
  rintro i s t (rfl | rfl | ⟨op, arg, unit, rfl⟩) hwf ht
  · exact ⟨_, exec_leader_repeats hwf ht, rfl⟩
  · rcases exec_fecenc_repeats hwf ht with hcompletes | hfaults
    · exact ⟨_, hcompletes, rfl⟩
    · exact ⟨t, hfaults, rfl⟩
  · exact ⟨_, exec_frame_repeats hwf ht, rfl⟩

end Sys2Proof.Machine
end

section
/-! SUPPORT. Command words and their fields (30_encoding.md R300, R311), what the decoder answers for every word
(R305, R309), and the match/mask table (R304). -/

namespace Sys2Proof.Machine

open Sys2Proof.Laws

/-! ## The fields of a packed word (30_encoding.md R300, R311) -/

/-- A field shifted to bit k is read back there. -/
theorem extractLsb'_shifted_self {n : Nat} (x : BitVec n) {k : Nat} (hk : k + n ≤ 64) :
    (x.setWidth 64 <<< k).extractLsb' k n = x := by
  apply BitVec.eq_of_getLsbD_eq
  intro i hi
  have hin : k + i < 64 := by omega
  simp [hi, hin]

/-- A field shifted to bit k leaves no bit outside bits k to k + m - 1. -/
theorem extractLsb'_shifted_of_disjoint {m : Nat} (x : BitVec m) {j k n : Nat} (h : j + n ≤ k ∨ k + m ≤ j) :
    (x.setWidth 64 <<< k).extractLsb' j n = 0 := by
  apply BitVec.eq_of_getLsbD_eq
  intro i hi
  by_cases hlt : j + i < k
  · simp [hlt]
  · simp [BitVec.getLsbD_of_ge x (j + i - k) (by omega)]

section

variable (opc a b : Byte) (u : Half) (n : Bool)

/-- A run of bits read from a packed word: what each field puts there. -/
theorem extractLsb'_packWord (j k : Nat) :
    (packWord opc a b u n).extractLsb' j k =
      (opc.setWidth 64 <<< 0).extractLsb' j k ||| (a.setWidth 64 <<< 8).extractLsb' j k |||
        (b.setWidth 64 <<< 16).extractLsb' j k ||| (u.setWidth 64 <<< 24).extractLsb' j k |||
        ((BitVec.ofBool n).setWidth 64 <<< 40).extractLsb' j k := by
  simp only [packWord, BitVec.extractLsb'_or, BitVec.shiftLeft_zero]

@[simp] theorem opcField_packWord : opcField (packWord opc a b u n) = opc := by
  simp [opcField, -BitVec.shiftLeft_zero, extractLsb'_packWord, extractLsb'_shifted_self,
    extractLsb'_shifted_of_disjoint]

@[simp] theorem aField_packWord : aField (packWord opc a b u n) = a := by
  simp [aField, -BitVec.shiftLeft_zero, extractLsb'_packWord, extractLsb'_shifted_self,
    extractLsb'_shifted_of_disjoint]

@[simp] theorem bField_packWord : bField (packWord opc a b u n) = b := by
  simp [bField, -BitVec.shiftLeft_zero, extractLsb'_packWord, extractLsb'_shifted_self,
    extractLsb'_shifted_of_disjoint]

@[simp] theorem uField_packWord : uField (packWord opc a b u n) = u := by
  simp [uField, -BitVec.shiftLeft_zero, extractLsb'_packWord, extractLsb'_shifted_self,
    extractLsb'_shifted_of_disjoint]

@[simp] theorem nField_packWord : nField (packWord opc a b u n) = BitVec.ofBool n := by
  simp [nField, -BitVec.shiftLeft_zero, extractLsb'_packWord, extractLsb'_shifted_self,
    extractLsb'_shifted_of_disjoint]

@[simp] theorem rsvField_packWord : rsvField (packWord opc a b u n) = 0 := by
  simp [rsvField, -BitVec.shiftLeft_zero, extractLsb'_packWord, extractLsb'_shifted_of_disjoint]

end

/-- Words that agree in every field are equal. -/
theorem eq_of_fields_eq {w v : CmdWord} (hopc : opcField w = opcField v) (ha : aField w = aField v)
    (hb : bField w = bField v) (hu : uField w = uField v) (hn : nField w = nField v)
    (hrsv : rsvField w = rsvField v) : w = v := by
  have hrun : ∀ {j k i : Nat}, w.extractLsb' j k = v.extractLsb' j k → j ≤ i → i < j + k →
      w.getLsbD i = v.getLsbD i := fun {j k i} h hj hk => by
    have hbit := congrArg (BitVec.getLsbD · (i - j)) h
    simpa [show i - j < k by omega, Nat.add_sub_cancel' hj] using hbit
  apply BitVec.eq_of_getLsbD_eq
  intro i hi
  obtain h | h | h | h | h | h : i < 8 ∨ (8 ≤ i ∧ i < 16) ∨ (16 ≤ i ∧ i < 24) ∨ (24 ≤ i ∧ i < 40) ∨
      (40 ≤ i ∧ i < 41) ∨ 41 ≤ i := by omega
  · exact hrun hopc (Nat.zero_le i) h
  · exact hrun ha h.1 h.2
  · exact hrun hb h.1 h.2
  · exact hrun hu h.1 h.2
  · exact hrun hn h.1 h.2
  · exact hrun hrsv h hi

/-- A word whose RSV field is zero is packed from its other fields. -/
theorem packWord_fields {w : CmdWord} (hrsv : rsvField w = 0) :
    packWord (opcField w) (aField w) (bField w) (uField w) (nField w == 1) = w := by
  have hbit : ∀ x : BitVec 1, BitVec.ofBool (x == 1) = x := by decide
  refine eq_of_fields_eq ?_ ?_ ?_ ?_ ?_ ?_ <;> simp only [opcField_packWord, aField_packWord, bField_packWord,
    uField_packWord, nField_packWord, rsvField_packWord, hbit, hrsv]

/-! ## What the decoder answers (30_encoding.md R305, R309, R310) -/

@[simp] theorem ofBool_beq_one (n : Bool) : (BitVec.ofBool n == 1#1) = n := by
  cases n <;> rfl

/-- The decoder gives every well-formed command back from its word. -/
theorem decode_encode {i : Instr} (hi : i.wellFormed = true) : decode (encode i) = .ok i := by
  cases i
  case pktwr | pktrd =>
    rw [Instr.wellFormed] at hi
    simp [decode, encode, fmt, Format.unusedClear, checkIndex, Instr.wellFormed, hi]
  all_goals simp [decode, encode, fmt, Format.unusedClear]

/-- The decoder's check of a format (R309) and the words of R302 say the same. -/
theorem unusedClear_iff (f : Format) (w : CmdWord) : f.unusedClear w = true ↔ ¬ unusedNonzero f w := by
  cases f <;> simp [Format.unusedClear, unusedNonzero] <;> tauto

/-- What is left of R305 for a word with an opcode of the map and RSV = 0: (c) and (d). -/
theorem illegalWord_iff_of_format {w : CmdWord} {f : Format} (hrsv : rsvField w = 0)
    (hf : formatOf (opcField w) = some f) :
    illegalWord w ↔
      ¬ f.unusedClear w = true ∨ ((opcField w = 0x20 ∨ opcField w = 0x21) ∧ 25 < (aField w).toNat) := by
  simp [illegalWord, hrsv, hf, unusedClear_iff]

@[simp] theorem ofBool_eq_zero {n : Bool} : BitVec.ofBool n = 0#1 ↔ n = false := by
  cases n <;> decide

theorem eq_ofNat_of_toNat_eq {n k : Nat} {x : BitVec n} (h : x.toNat = k) : x = BitVec.ofNat n k :=
  BitVec.eq_of_toNat_eq (by simp [← h])

/-- What an answer of the decoder must say of the word. -/
def AnswersWord (w : CmdWord) : Except IllegalWord Instr → Prop
  | .ok i => i.wellFormed = true ∧ encode i = w ∧ ¬ illegalWord w
  | .error _ => illegalWord w

section

variable {opc a b : Byte} {u : Half} {n : Bool} {f : Format} {i : Instr}

/-- R309's two checks catch (c) and (d) of R305; a command that passes them is packed in the word. -/
theorem checkIndex_fmt_answersWord (hf : formatOf opc = some f)
    (hwf : i.wellFormed = true ↔ ¬ ((opc = 0x20 ∨ opc = 0x21) ∧ 25 < a.toNat))
    (henc : f.unusedClear (packWord opc a b u n) = true → encode i = packWord opc a b u n) :
    AnswersWord (packWord opc a b u n) (checkIndex (fmt f (packWord opc a b u n) i)) := by
  have hillegal := illegalWord_iff_of_format (rsvField_packWord opc a b u n) (by rwa [opcField_packWord])
  rw [opcField_packWord, aField_packWord] at hillegal
  by_cases hclear : f.unusedClear (packWord opc a b u n) = true
  · by_cases hindex : i.wellFormed = true
    · rw [fmt, if_pos hclear, checkIndex, if_pos hindex]
      exact ⟨hindex, henc hclear, by tauto⟩
    · rw [fmt, if_pos hclear, checkIndex, if_neg hindex]
      exact hillegal.2 (.inr (by tauto))
  · rw [fmt, if_neg hclear]
    exact hillegal.2 (.inl hclear)

theorem checkIndex_fmt_of_wellFormed (hwf : i.wellFormed = true) (w : CmdWord) :
    checkIndex (fmt f w i) = fmt f w i := by
  by_cases hclear : f.unusedClear w = true
  · rw [fmt, if_pos hclear, checkIndex, if_pos hwf]
  · rw [fmt, if_neg hclear, checkIndex]

/-- A row without an index needs no index check. -/
theorem fmt_answersWord (hf : formatOf opc = some f) (hwf : i.wellFormed = true)
    (hopc : opc ≠ 0x20 ∧ opc ≠ 0x21)
    (henc : f.unusedClear (packWord opc a b u n) = true → encode i = packWord opc a b u n) :
    AnswersWord (packWord opc a b u n) (fmt f (packWord opc a b u n) i) := by
  rw [← checkIndex_fmt_of_wellFormed hwf]
  exact checkIndex_fmt_answersWord hf (by tauto) henc

/-- Each opcode of the map reads its command from the fields that its format uses; any other is (a) of R305. -/
theorem decode_packWord_answersWord :
    AnswersWord (packWord opc a b u n) (decode (packWord opc a b u n)) := by
  rw [decode, if_neg (by simp)]
  simp only [opcField_packWord, aField_packWord, bField_packWord, uField_packWord, nField_packWord]
  split
  case h_14 =>
    have hf : formatOf opc = none := by
      unfold formatOf
      split
      case h_14 => rfl
      all_goals contradiction
    exact .inl (by rwa [opcField_packWord])
  all_goals
    rename_i h
    obtain rfl := eq_ofNat_of_toNat_eq h
  case h_10 | h_11 =>
    exact checkIndex_fmt_answersWord rfl (by simp [Instr.wellFormed, indexInRange])
      (by simp +contextual [Format.unusedClear, encode])
  all_goals exact fmt_answersWord rfl rfl (by decide) (by simp +contextual [Format.unusedClear, encode])

end

/-- What the decoder can answer: the well-formed command of a legal word, or an error for an illegal one. -/
theorem decode_answersWord (w : CmdWord) : AnswersWord w (decode w) := by
  by_cases hrsv : rsvField w = 0
  · rw [← packWord_fields hrsv]
    exact decode_packWord_answersWord
  · rw [decode, if_pos hrsv]
    exact .inr (.inl hrsv)

section

variable {w : CmdWord}

theorem decode_eq_ok {i : Instr} (h : decode w = .ok i) :
    i.wellFormed = true ∧ encode i = w ∧ ¬ illegalWord w := by
  have hanswer := decode_answersWord w
  rwa [h] at hanswer

theorem exists_decode_iff : (∃ i, decode w = .ok i) ↔ ¬ illegalWord w := by
  refine ⟨fun ⟨i, hi⟩ => (decode_eq_ok hi).2.2, fun hlegal => ?_⟩
  have hanswer := decode_answersWord w
  cases hd : decode w with
  | ok i => exact ⟨i, rfl⟩
  | error e => exact absurd (by rwa [hd] at hanswer) hlegal

theorem illegalWord_iff : illegalWord w ↔ ∀ i, decode w ≠ .ok i := by
  rw [← not_exists, exists_decode_iff, not_not]

end

/-- Settles O1: fields read back from a packed word, and a word with RSV = 0 is packed from its fields. -/
theorem decodeIsBijection : Obligations.DecodeIsBijection := by
  refine ⟨fun i => decode_encode, fun w i h => ?_⟩
  obtain ⟨hwf, henc, -⟩ := decode_eq_ok h
  exact ⟨hwf, henc⟩

/-! ## The match/mask table (30_encoding.md R304) -/

/-- A run of bits that the mask selects whole is the match's run. -/
theorem extractLsb'_eq_of_and_eq {w m v : CmdWord} (h : w &&& m = v) {j k : Nat}
    (hm : m.extractLsb' j k = BitVec.allOnes k) : w.extractLsb' j k = v.extractLsb' j k := by
  rw [← h, BitVec.extractLsb'_and, hm, BitVec.and_allOnes]

/-- The mask of the rows of a format: OPC, RSV and the fields that the format does not use. -/
def formatMask : Format → CmdWord
  | .z => 0xFFFFFFFFFFFFFFFF
  | .a => 0xFFFFFFFFFFFF00FF
  | .ab => 0xFFFFFFFFFF0000FF
  | .abu => 0xFFFFFF00000000FF
  | .abun => 0xFFFFFE00000000FF
  | .u => 0xFFFFFF0000FFFFFF

section

variable {w : CmdWord} {r : TableRow}

/-- Each row is made from its opcode and its opcode's format. -/
theorem mask_eq_of_mem (hr : r ∈ opcodeTable) :
    (formatOf (opcField r.matchBits)).map formatMask = some r.mask ∧
      r.matchBits = packWord (opcField r.matchBits) 0 0 0 false := by
  revert r
  decide

theorem selects_iff : r.selects w = true ↔ w &&& r.mask = r.matchBits := beq_iff_eq

/-- A row selects words of its opcode only. -/
theorem opcField_of_selects (hr : r ∈ opcodeTable) (h : r.selects w = true) :
    opcField w = opcField r.matchBits := by
  have hmask : ∀ r ∈ opcodeTable, opcField r.mask = BitVec.allOnes 8 := by decide
  exact extractLsb'_eq_of_and_eq (selects_iff.1 h) (hmask r hr)

/-- A word that a format's mask takes to its opcode alone leaves the unused fields zero. -/
theorem not_unusedNonzero_of_and_mask {opc : Byte} {f : Format}
    (h : w &&& formatMask f = packWord opc 0 0 0 false) : ¬ unusedNonzero f w := by
  have ha (hm : aField (formatMask f) = BitVec.allOnes 8) : aField w = 0 :=
    (extractLsb'_eq_of_and_eq h hm).trans (aField_packWord ..)
  have hb (hm : bField (formatMask f) = BitVec.allOnes 8) : bField w = 0 :=
    (extractLsb'_eq_of_and_eq h hm).trans (bField_packWord ..)
  have hu (hm : uField (formatMask f) = BitVec.allOnes 16) : uField w = 0 :=
    (extractLsb'_eq_of_and_eq h hm).trans (uField_packWord ..)
  have hn (hm : nField (formatMask f) = BitVec.allOnes 1) : nField w = 0 :=
    (extractLsb'_eq_of_and_eq h hm).trans (nField_packWord ..)
  cases f with
  | z => simp [unusedNonzero, ha rfl, hb rfl, hu rfl, hn rfl]
  | a => simp [unusedNonzero, hb rfl, hu rfl, hn rfl]
  | ab => simp [unusedNonzero, hu rfl, hn rfl]
  | abu => simp [unusedNonzero, hn rfl]
  | abun => simp [unusedNonzero]
  | u => simp [unusedNonzero, ha rfl, hb rfl, hn rfl]

/-- A word that a row selects is legal but for the index of R305 (d). -/
theorem illegalWord_iff_of_selects (hr : r ∈ opcodeTable) (h : r.selects w = true) :
    illegalWord w ↔ (opcField w = 0x20 ∨ opcField w = 0x21) ∧ 25 < (aField w).toNat := by
  obtain ⟨hformat, hmatch⟩ := mask_eq_of_mem hr
  obtain ⟨f, hf, hmask⟩ := Option.map_eq_some_iff.1 hformat
  rw [← opcField_of_selects hr h] at hf hmatch
  have hand : w &&& formatMask f = packWord (opcField w) 0 0 0 false := by
    rw [hmask, ← hmatch]
    exact selects_iff.1 h
  have hrsv : rsvField w = 0 :=
    (extractLsb'_eq_of_and_eq hand (by cases f <;> rfl)).trans (rsvField_packWord ..)
  rw [illegalWord_iff_of_format hrsv hf, unusedClear_iff]
  simp [not_unusedNonzero_of_and_mask hand]

end

/-- Settles O3: a row selects its own opcode only, and no two rows share one. -/
theorem noWordMatchesTwoRows : Obligations.NoWordMatchesTwoRows := by
  intro w r hr r' hr' h h'
  have hinj : ∀ r ∈ opcodeTable, ∀ r' ∈ opcodeTable, opcField r.matchBits = opcField r'.matchBits → r = r' := by
    decide
  exact hinj r hr r' hr' ((opcField_of_selects hr h).symm.trans (opcField_of_selects hr' h'))

/-- Every command's word matches the row of its mnemonic. -/
theorem tableMatch (i : Instr) : TableMatch.Statement i := by
  cases i with
  | crcinit => exact TableMatch.crcinit
  | crcbyte b => exact TableMatch.crcbyte b
  | crcread => exact TableMatch.crcread
  | leader => exact TableMatch.leader
  | frame op arg unit => exact TableMatch.frame op arg unit
  | fecenc => exact TableMatch.fecenc
  | ilv => exact TableMatch.ilv
  | diff => exact TableMatch.diff
  | encode op arg unit null => exact TableMatch.encode op arg unit null
  | pktwr i v => exact TableMatch.pktwr i v
  | pktrd i => exact TableMatch.pktrd i
  | xmit len => exact TableMatch.xmit len
  | postid unit => exact TableMatch.postid unit

/-- The row that selects a command's word is the one of its mnemonic. -/
theorem selects_encode_iff {r : TableRow} (hr : r ∈ opcodeTable) (i : Instr) :
    r.selects (encode i) = true ↔ i.mnemonic = r.mnemonic := by
  have hinj : ∀ r ∈ opcodeTable, ∀ r' ∈ opcodeTable, r.mnemonic = r'.mnemonic → r = r' := by decide
  obtain ⟨r', hr', hname, hselects⟩ := tableMatch i
  refine ⟨fun h => ?_, fun h => ?_⟩
  · rw [noWordMatchesTwoRows _ r hr r' hr' h hselects, hname]
  · rwa [hinj r hr r' hr' (by rw [hname, h])]

/-- Settles O2: a word that a row selects is legal but for the index, so it decodes, and to the command of the only
row that selects it. -/
theorem tableRowSelectsItsCommand : Obligations.TableRowSelectsItsCommand := by
  intro r hr w
  have hindexed : ∀ r ∈ opcodeTable, (r.mnemonic = "PKTWR" ∨ r.mnemonic = "PKTRD") ↔
      (opcField r.matchBits = 0x20 ∨ opcField r.matchBits = 0x21) := by decide
  have hlegal (h : r.selects w = true) :
      ¬ illegalWord w ↔ (r.mnemonic = "PKTWR" ∨ r.mnemonic = "PKTRD" → (aField w).toNat ≤ 25) := by
    rw [illegalWord_iff_of_selects hr h, hindexed r hr, opcField_of_selects hr h, not_and, not_lt]
  constructor
  · rintro ⟨i, hi, hname⟩
    obtain ⟨-, rfl, hok⟩ := decode_eq_ok hi
    have h := (selects_encode_iff hr i).2 hname
    exact ⟨h, (hlegal h).1 hok⟩
  · rintro ⟨h, hindex⟩
    obtain ⟨i, hi⟩ := exists_decode_iff.2 ((hlegal h).2 hindex)
    obtain ⟨-, rfl, -⟩ := decode_eq_ok hi
    exact ⟨i, hi, (selects_encode_iff hr i).1 h⟩

/-! ## An illegal word at the port (30_encoding.md R305, 60_exceptions.md R811) -/

theorem acceptWord_of_illegal {w : CmdWord} (h : illegalWord w) (s : State) :
    acceptWord w s = .next (raiseFault .illegal (logAct (.accepted w) s)) := by
  cases hd : decode w with
  | ok i => exact absurd h (decode_eq_ok hd).2.2
  | error e => rw [acceptWord, hd, failWith_eq]

/-- Settles O5: the decoder answers an error exactly for an illegal word, and the port turns it into ILLEGAL. -/
theorem illegalWordOnlySetsIllegal : Obligations.IllegalWordOnlySetsIllegal := by
  refine ⟨fun _ => illegalWord_iff, fun s s0 w hs hoffer hturn hillegal => ?_⟩
  rw [step_of_offers hoffer hturn, hostStep, acceptWord_of_illegal hillegal]
  obtain ⟨e, rfl, -⟩ := sequencerTurn_env hturn
  exact ⟨_, rfl, rfl, rfl⟩

/-! ## Words of 95_test_vectors.md -/

/-- Settles O4: the six words are those of the commands; the seventh has an RSV bit set. -/
theorem writtenWordsDecode : Obligations.WrittenWordsDecode :=
  ⟨decode_encode (i := .crcbyte 0x01) rfl, decode_encode (i := .frame 0x01 0x00 0x1234) rfl,
    decode_encode (i := .encode 0x01 0x00 0x1234 true) rfl, decode_encode (i := .pktwr 3 0xA5) rfl,
    decode_encode (i := .xmit 26) rfl, decode_encode (i := .postid 0x1234) rfl, by decide⟩

end Sys2Proof.Machine
end

section
/-! SUPPORT. Stage commands leave the same registers whatever the trace is, so a sequence of them leaves what the
stages leave (30_encoding.md R312). -/

namespace Sys2Proof.Machine

open Sys2Proof.Laws

/-! ## Commands one after the other -/

/-- The commands take `s` to `t` but for the trace, whatever the trace is. -/
def RunsTo (is : List Instr) (s t : State) : Prop :=
  ∀ tr, ∃ tr', execAll is { s with trace := tr } = .next { t with trace := tr' }

theorem RunsTo.nil (s : State) : RunsTo [] s s := fun tr => ⟨tr, rfl⟩

theorem RunsTo.cons {i : Instr} {is : List Instr} {s t u : State}
    (hi : ∀ tr, exec i { s with trace := tr } = complete { t with trace := tr }) (hrest : RunsTo is t u) :
    RunsTo (i :: is) s u := by
  intro tr
  rw [execAll, hi, complete_eq]
  exact hrest _

section

variable {s t : State}

/-! ## ILV and DIFF when their reads find values -/

/-- What ILV does when the payload is written. -/
theorem ilvStage_of_readBytes {cs : List Byte} (hcs : readBytes s.pkt 12 14 = some cs) :
    ilvStage s = some { s with pkt := writeBytes s.pkt 12 (ilvBytes cs) } := by
  rw [ilvStage, show CODED_LEN = 14 from rfl, hcs]

/-- What DIFF does when the packet is written. -/
theorem diffStage_of_readBytes {cs : List Byte} (hcs : readBytes s.pkt 0 26 = some cs) :
    diffStage s =
      some { s with pkt := writeBytes s.pkt 0 (diffBytes false cs).2, dprev := (diffBytes false cs).1 } := by
  rw [diffStage, show PACKET_LEN = 26 from rfl, hcs, DIFF_INIT]

theorem exec_ilv_of_some (ht : ilvStage s = some t) : exec .ilv s = complete t := by
  rw [exec, execIlv, ht, completeStage]

theorem exec_diff_of_some (ht : diffStage s = some t) : exec .diff s = complete t := by
  rw [exec, execDiff, ht, completeStage]

/-! ## Each stage command whatever the trace is -/

theorem exec_leader_withTrace (s : State) (tr : List Event) :
    exec .leader { s with trace := tr } = complete { leaderStage s with trace := tr } := rfl

theorem exec_frame_withTrace (op arg : Byte) (unit : Half) (s : State) (tr : List Event) :
    exec (.frame op arg unit) { s with trace := tr } =
      complete { frameStage op arg unit s with trace := tr } := rfl

theorem exec_fecenc_withTrace (ht : fecStage s = some t) (tr : List Event) :
    exec .fecenc { s with trace := tr } = complete { t with trace := tr } := by
  obtain ⟨ds, hds, rfl⟩ := fecStage_eq_some ht
  exact exec_fecenc_of_some (fecStage_of_readBytes hds)

theorem exec_ilv_withTrace (ht : ilvStage s = some t) (tr : List Event) :
    exec .ilv { s with trace := tr } = complete { t with trace := tr } := by
  obtain ⟨cs, hcs, rfl⟩ := ilvStage_eq_some ht
  exact exec_ilv_of_some (ilvStage_of_readBytes hcs)

theorem exec_diff_withTrace (ht : diffStage s = some t) (tr : List Event) :
    exec .diff { s with trace := tr } = complete { t with trace := tr } := by
  obtain ⟨cs, hcs, rfl⟩ := diffStage_eq_some ht
  exact exec_diff_of_some (diffStage_of_readBytes hcs)

/-! ## The five stages (45_encode.md R650) -/

theorem encodeStages_eq_some {op arg : Byte} {unit : Half} (ht : encodeStages op arg unit s = some t) :
    ∃ u v, fecStage (frameStage op arg unit (leaderStage s)) = some u ∧ ilvStage u = some v ∧
      diffStage v = some t := by
  rw [encodeStages] at ht
  split at ht
  case h_1 => cases ht
  case h_2 u hu =>
    split at ht
    case h_1 => cases ht
    case h_2 v hv => exact ⟨u, v, hu, hv, ht⟩

/-- The five stage commands do what ENCODE's stages do. -/
theorem runsTo_encodeStages {op arg : Byte} {unit : Half} (ht : encodeStages op arg unit s = some t) :
    RunsTo [.leader, .frame op arg unit, .fecenc, .ilv, .diff] s t := by
  obtain ⟨u, v, hfec, hilv, hdiff⟩ := encodeStages_eq_some ht
  exact .cons (exec_leader_withTrace s) <| .cons (exec_frame_withTrace op arg unit _) <|
    .cons (exec_fecenc_withTrace hfec) <| .cons (exec_ilv_withTrace hilv) <| .cons (exec_diff_withTrace hdiff) <|
    .nil t

theorem exec_encode_of_some {op arg : Byte} {unit : Half} (ht : encodeStages op arg unit s = some t) :
    exec (.encode op arg unit false) s = completeWith encodeResult t := by
  simp [exec, execEncode, ht]

end

/-- Settles O26: both run the same stages, which do not read the trace; the five commands log five completions and
ENCODE one. -/
theorem encodeEqualsStageSequence : Obligations.EncodeEqualsStageSequence := by
  intro op arg unit s
  obtain ⟨t, ht⟩ := encodeStages_isSome op arg unit s
  obtain ⟨tr, hseq⟩ := runsTo_encodeStages ht s.trace
  exact ⟨_, _, hseq, exec_encode_of_some ht, rfl⟩

end Sys2Proof.Machine
end

section
/-! SUPPORT. LEADER byte by byte (40_packet_buffer.md R403), line coding in closed form (44_diffcode.md R602), and
the leader bytes on their way through ENCODE's stages (40_packet_buffer.md R404). -/

namespace Sys2Proof.Machine

open Sys2Proof.Laws

/-! ## LEADER (40_packet_buffer.md R403) -/

section

variable (s : State)

/-- The preamble. -/
theorem cellRead_leaderStage_of_lt {j : Nat} (hj : j < 7) : cellRead (leaderStage s).pkt j = some 0x00 := by
  rw [leaderStage, cellRead_writeBytes, if_neg (by omega), cellRead_writeBytes,
    if_pos ⟨Nat.zero_le j, by simpa [preambleBytes, PREAMBLE_LEN] using hj⟩, Nat.sub_zero]
  exact List.getElem?_replicate_of_lt hj

/-- SYNC_PATTERN. -/
theorem cellRead_leaderStage_sync {k : Nat} (hk : k < 5) :
    cellRead (leaderStage s).pkt (7 + k) = s.cfg.sync.toList[k]? := by
  have hlen := syncBytes_length s.cfg
  rw [leaderStage, cellRead_writeBytes, if_pos (by omega), Nat.add_sub_cancel_left, syncBytes_eq]

theorem cellRead_leaderStage_of_gt {j : Nat} (hj : 11 < j) :
    cellRead (leaderStage s).pkt j = cellRead s.pkt j := by
  have hlen := syncBytes_length s.cfg
  have hpreamble : preambleBytes.length = 7 := rfl
  rw [leaderStage, cellRead_writeBytes, if_neg (by omega), cellRead_writeBytes, if_neg (by omega)]

end

/-- Settles O14: LEADER completes in the state `leaderStage` leaves. -/
theorem leaderWritesPreambleAndSync : Obligations.LeaderWritesPreambleAndSync := fun s =>
  ⟨logAct (.completed s.res) (leaderStage s), rfl, rfl, fun _ => cellRead_leaderStage_of_lt s,
    fun _ => cellRead_leaderStage_sync s, fun _ => cellRead_leaderStage_of_gt s⟩

/-! ## Line coding in closed form (44_diffcode.md R602) -/

/-- Bit i of a byte packed MSB-first, counted from the last bit packed. -/
theorem getLsbD_ofBitsMsb (xs : List Bool) {i : Nat} (hi : i < 8) :
    (ofBitsMsb xs).getLsbD i = xs.reverse.getD i false := by
  induction xs using List.reverseRecOn generalizing i with
  | nil => simp [ofBitsMsb]
  | append_singleton xs x ih =>
    have hstep : ofBitsMsb (xs ++ [x]) = (ofBitsMsb xs <<< 1) ||| bitByte x := by simp [ofBitsMsb]
    rw [hstep, BitVec.getLsbD_or, BitVec.getLsbD_shiftLeft, List.reverse_concat]
    cases i with
    | zero => simp [bitByte]
    | succ i => simpa [bitByte, hi] using ih (by omega : i < 8)

/-- A coded bit is 1 exactly when the bit equals the one before it, MSB first. -/
theorem getLsbD_lineCode (p : Bool) (c : Byte) {i : Nat} (hi : i < 8) :
    (lineCode p c).getLsbD i = !(c.getLsbD i ^^ if i = 7 then p else c.getLsbD (i + 1)) := by
  rw [lineCode, BitVec.getLsbD_not, BitVec.getLsbD_xor, BitVec.getLsbD_or, BitVec.getLsbD_ushiftRight,
    BitVec.getLsbD_shiftLeft, bitByte]
  rcases (by omega : i = 7 ∨ i < 7) with rfl | h
  · simp
  · simp [h, h.ne, hi, Nat.add_comm 1 i]

theorem diffByte_eq (p : Bool) (c : Byte) : diffByte p c = (c.getLsbD 0, lineCode p c) := by
  refine Prod.ext rfl (BitVec.eq_of_getLsbD_eq fun i hi => ?_)
  rw [getLsbD_lineCode p c hi]
  show (~~~ofBitsMsb (diffBits p (bitsMsb c)).2).getLsbD i = _
  rw [BitVec.getLsbD_not, getLsbD_ofBitsMsb _ hi]
  interval_cases i <;> simp [diffBits, bitsMsb]

/-- Each byte is coded with the last bit of the byte before it. -/
theorem diffBytes_eq_zipWith (p : Bool) (cs : List Byte) :
    (diffBytes p cs).2 = List.zipWith lineCode (p :: cs.map (·.getLsbD 0)) cs := by
  induction cs generalizing p with
  | nil => rfl
  | cons c cs ih => simp [diffBytes, diffByte_eq, ih]

/-- What DIFF makes of a byte it reads. -/
theorem cellRead_diffStage {s t : State} (ht : diffStage s = some t) {i : Nat} (hi : i < 26) {c : Byte}
    (hc : cellRead s.pkt i = some c) : cellRead t.pkt i = some (lineCode (carriedBit s.pkt i) c) := by
  obtain ⟨cs, hcs, rfl⟩ := diffStage_eq_some ht
  obtain ⟨hlen, hcells⟩ := readBytes_eq_some.1 hcs
  have hcell : ∀ j, j < 26 → cellRead s.pkt j = cs[j]? := fun j hj => by simpa using hcells j hj
  have hcarry : (false :: cs.map (·.getLsbD 0))[i]? = some (carriedBit s.pkt i) := by
    cases i with
    | zero => rfl
    | succ j =>
      have hj : cellRead s.pkt j = cs[j]? := hcell j (by omega)
      simp [carriedBit, pktByte, hj, hlen, show j < 26 by omega]
  rw [cellRead_writeBytes, if_pos (by rw [diffBytes_length]; omega), Nat.sub_zero, diffBytes_eq_zipWith,
    List.getElem?_zipWith, hcarry, ← hcell i hi, hc]

/-! ## The leader on its way through ENCODE (40_packet_buffer.md R404) -/

section

variable {s t : State} {j : Nat}

theorem cellRead_frameStage_of_lt (op arg : Byte) (unit : Half) (hj : j < 12) :
    cellRead (frameStage op arg unit s).pkt j = cellRead s.pkt j := by
  rw [frameStage, cellRead_writeBytes, if_neg (by omega)]

theorem cellRead_fecStage_of_lt (ht : fecStage s = some t) (hj : j < 19) :
    cellRead t.pkt j = cellRead s.pkt j := by
  obtain ⟨ds, -, rfl⟩ := fecStage_eq_some ht
  rw [cellRead_writeBytes, if_neg (by omega)]

theorem cellRead_ilvStage_of_lt (ht : ilvStage s = some t) (hj : j < 12) :
    cellRead t.pkt j = cellRead s.pkt j := by
  obtain ⟨cs, -, rfl⟩ := ilvStage_eq_some ht
  rw [cellRead_writeBytes, if_neg (by omega)]

variable {op arg : Byte} {unit : Half}

/-- ENCODE's last stage is DIFF, on a state that still holds LEADER's bytes. -/
theorem encodeStages_eq_diffStage (ht : encodeStages op arg unit s = some t) :
    ∃ v, diffStage v = some t ∧ ∀ j, j < 12 → cellRead v.pkt j = cellRead (leaderStage s).pkt j := by
  obtain ⟨u, v, hfec, hilv, hdiff⟩ := encodeStages_eq_some ht
  refine ⟨v, hdiff, fun j hj => ?_⟩
  rw [cellRead_ilvStage_of_lt hilv hj, cellRead_fecStage_of_lt hfec (by omega),
    cellRead_frameStage_of_lt op arg unit hj]

/-- Seven zero bytes, entered with carried bit 0. -/
theorem encodeStages_preamble (ht : encodeStages op arg unit s = some t) {i : Nat} (hi : i < 7) :
    cellRead t.pkt i = some 0xFF := by
  obtain ⟨v, hdiff, hleader⟩ := encodeStages_eq_diffStage ht
  have hzero : ∀ j, j < 7 → cellRead v.pkt j = some 0x00 := fun j hj =>
    (hleader j (by omega)).trans (cellRead_leaderStage_of_lt s hj)
  have hcarry : carriedBit v.pkt i = false := by
    cases i with
    | zero => rfl
    | succ j => simp [carriedBit, pktByte, hzero j (by omega)]
  rw [cellRead_diffStage hdiff (by omega) (hzero i hi), hcarry]
  rfl

/-- The carry into the first sync byte is the last bit of the preamble, 0. -/
theorem encodeStages_sync (ht : encodeStages op arg unit s = some t) {k : Nat} (hk : k < 5) :
    cellRead t.pkt (7 + k) = some (lineCode
      (if k = 0 then false else (s.cfg.sync.toList.getD (k - 1) 0).getLsbD 0) (s.cfg.sync.toList.getD k 0)) := by
  obtain ⟨v, hdiff, hleader⟩ := encodeStages_eq_diffStage ht
  have hsync : ∀ j, j < 5 → cellRead v.pkt (7 + j) = some (s.cfg.sync.toList.getD j 0) := fun j hj => by
    rw [hleader _ (by omega), cellRead_leaderStage_sync s hj]
    simp [hj]
  have hcarry : carriedBit v.pkt (7 + k) =
      if k = 0 then false else (s.cfg.sync.toList.getD (k - 1) 0).getLsbD 0 := by
    cases k with
    | zero => simp [carriedBit, pktByte, hleader 6 (by omega), cellRead_leaderStage_of_lt s (by omega : 6 < 7)]
    | succ j => simp [carriedBit, pktByte, ← Nat.add_assoc, hsync j (by omega)]
  rw [cellRead_diffStage hdiff (by omega) (hsync k hk), hcarry]

end

/-- Settles O27: ENCODE leaves what its stages leave, but for RES and the trace. -/
theorem encodedLeaderIsConstant : Obligations.EncodedLeaderIsConstant := by
  intro op arg unit s
  obtain ⟨t, ht⟩ := encodeStages_isSome op arg unit s
  exact ⟨_, exec_encode_of_some ht, fun _ => encodeStages_preamble ht, fun _ => encodeStages_sync ht⟩

end Sys2Proof.Machine
end

section
/-! SUPPORT. One CRC step in the byte-wise and the bitwise form (41_crc_frame.md R449): both are the linear shift
`crcShift`, which meets the byte's bits all at once or one by one. From it the CRC commands (R450, R451, R452) and
FRAME (R454, R455). -/

namespace Sys2Proof.Machine

open Sys2Proof.Laws

/-! ## The shift is linear (41_crc_frame.md R449, R451) -/

/-- The polynomial enters exactly when the top bit leaves. -/
theorem crcShift_eq (c : Half) : crcShift c = (c <<< 1) ^^^ (if c.getLsbD 15 then CRC_POLY else 0) := by
  rw [crcShift]
  split <;> simp

/-- Two accumulators' polynomials cancel when both top bits are set. -/
theorem crcShift_xor (c d : Half) : crcShift (c ^^^ d) = crcShift c ^^^ crcShift d := by
  have hpoly : (if Bool.xor (c.getLsbD 15) (d.getLsbD 15) then CRC_POLY else 0) =
      (if c.getLsbD 15 then CRC_POLY else 0) ^^^ (if d.getLsbD 15 then CRC_POLY else 0) := by
    cases c.getLsbD 15 <;> cases d.getLsbD 15 <;> decide
  simp only [crcShift_eq, BitVec.shiftLeft_xor_distrib, BitVec.getLsbD_xor, hpoly]
  ac_rfl

theorem iterate_crcShift_xor (n : Nat) (c d : Half) : crcShift^[n] (c ^^^ d) = crcShift^[n] c ^^^ crcShift^[n] d :=
  Function.Semiconj₂.iterate (op := (· ^^^ ·)) crcShift_xor n c d

/-- The byte-wise form: the byte enters at the top, then eight shifts. -/
theorem crcStep_eq_iterate (c : Half) (b : Byte) : crcStep c b = crcShift^[8] (c ^^^ (b.setWidth 16 <<< 8)) := rfl

/-- Settles O11: the byte's place at the top of the accumulator and each of the eight shifts are linear. -/
theorem crcStepIsLinear : Obligations.CrcStepIsLinear := by
  intro c c' b b'
  simp only [crcStep_eq_iterate, ← iterate_crcShift_xor]
  congr 1
  rw [BitVec.setWidth_xor, BitVec.shiftLeft_xor_distrib]
  ac_rfl

/-! ## The two forms of one CRC step agree (41_crc_frame.md R449) -/

/-- One step of the bitwise form: the polynomial enters when input bit x differs from the top bit. -/
def crcShiftIn (c : Half) (x : Bool) : Half :=
  (c <<< 1) ^^^ (if Bool.xor (c.getLsbD 15) x then 0x1021 else 0x0000)

/-- The bitwise form takes the byte's bits from the top. -/
theorem crcBitwise_eq_foldl (c : Half) (b : Byte) :
    crcBitwise c b = (List.range 8).foldl (fun c j => crcShiftIn c (b.getLsbD (7 - j))) c := rfl

/-- An input bit at the top of the accumulator, and what waits below it. -/
theorem crcShift_xor_eq_crcShiftIn (c d : Half) :
    crcShift (c ^^^ d) = crcShiftIn c (d.getLsbD 15) ^^^ (d <<< 1) := by
  rw [crcShift_eq, crcShiftIn, BitVec.shiftLeft_xor_distrib, BitVec.getLsbD_xor, CRC_POLY]
  ac_rfl

/-- After n shifts the accumulator has met the n top bits of the byte, and the others wait n places higher. -/
theorem iterate_crcShift_eq_foldl (c : Half) (b : Byte) {n : Nat} (hn : n ≤ 8) :
    crcShift^[n] (c ^^^ (b.setWidth 16 <<< 8)) =
      (List.range n).foldl (fun c j => crcShiftIn c (b.getLsbD (7 - j))) c ^^^ (b.setWidth 16 <<< (8 + n)) := by
  induction n with
  | zero => rfl
  | succ n ih =>
    have htop : (b.setWidth 16 <<< (8 + n)).getLsbD 15 = b.getLsbD (7 - n) := by
      have hbit : 15 - (8 + n) = 7 - n := by omega
      have hin : 8 + n ≤ 15 := by omega
      simp [hbit, hin]
    rw [Function.iterate_succ_apply', ih (by omega), crcShift_xor_eq_crcShiftIn, htop, List.range_succ,
      List.foldl_append, ← BitVec.shiftLeft_add]
    rfl

/-- The byte-wise and the bitwise form are one function. -/
theorem crcStep_eq_crcBitwise : crcStep = crcBitwise := by
  funext c b
  have hout : b.setWidth 16 <<< (8 + 8) = 0#16 := BitVec.shiftLeft_eq_zero (by decide)
  rw [crcStep_eq_iterate, iterate_crcShift_eq_foldl c b le_rfl, hout, BitVec.xor_zero, crcBitwise_eq_foldl]

/-! ## CRCINIT, CRCBYTE and CRCREAD (41_crc_frame.md R450, R451, R452) -/

theorem exec_crcinit (s : State) : exec .crcinit s = complete { s with crc := 0x0000 } := rfl

theorem exec_crcbyte (b : Byte) (s : State) :
    exec (.crcbyte b) s = complete { s with crc := crcBitwise s.crc b } := by
  rw [← crcStep_eq_crcBitwise]
  rfl

theorem exec_crcread (s : State) : exec .crcread s = completeWith (s.crc.setWidth 32) s := rfl

/-- Settles O10: each command completes with one register written. -/
theorem crcCommandsEffect : Obligations.CrcCommandsEffect :=
  ⟨exec_crcinit, exec_crcbyte, exec_crcread⟩

/-- A run of CRCBYTEs folds the bytes into CRC and logs one completion for each. -/
theorem execAll_crcbytes (bs : List Byte) (is : List Instr) (s : State) :
    execAll (bs.map .crcbyte ++ is) s = execAll is { s with
      crc := bs.foldl crcBitwise s.crc
      trace := List.replicate bs.length ⟨s.tick, .completed s.res⟩ ++ s.trace } := by
  induction bs generalizing s with
  | nil => rfl
  | cons b bs ih =>
    rw [List.map_cons, List.cons_append, execAll, exec_crcbyte, complete_eq]
    simp only [ih, logAct, List.foldl_cons, List.length_cons, List.replicate_succ', List.append_assoc,
      List.singleton_append]

/-- Completions are not port calls. -/
theorem portCalls_replicate_completed_append (n tick : Nat) (r : Option ResWord) (tr : List Event) :
    portCalls (List.replicate n ⟨tick, .completed r⟩ ++ tr) = portCalls tr := by
  simp [portCalls, Act.isPortCall]

/-- Settles O12: CRCINIT clears CRC, the CRCBYTEs fold the bytes into it, and CRCREAD copies it to RES. -/
theorem crcSequenceComputesCrc16 : Obligations.CrcSequenceComputesCrc16 := by
  intro bs s
  have hrun := execAll_crcbytes bs [.crcread] (logAct (.completed s.res) { s with crc := 0x0000 })
  exact ⟨_, hrun, rfl, portCalls_replicate_completed_append bs.length s.tick s.res _⟩

/-! ## FRAME (41_crc_frame.md R454, R455) -/

theorem crc16_frameHead (op arg : Byte) (unit : Half) : crc16 (frameHead op arg unit) = frameCrc op arg unit := by
  rw [crc16, crcStep_eq_crcBitwise]
  exact BitVec.xor_zero

/-- The list of the frame's bytes is R455's byte map. -/
theorem getElem?_frameBytes (op arg : Byte) (unit : Half) {k : Nat} (hk : k < 7) :
    (frameBytes op arg unit)[k]? = some (frameByte op arg unit k) := by
  rw [frameBytes, crc16_frameHead]
  interval_cases k <;> rfl

section

variable (op arg : Byte) (unit : Half) (s : State)

theorem cellRead_frameStage {k : Nat} (hk : k < 7) :
    cellRead (frameStage op arg unit s).pkt (12 + k) = some (frameByte op arg unit k) := by
  rw [frameStage, cellRead_writeBytes, frameBytes_length, if_pos (by omega), Nat.add_sub_cancel_left,
    getElem?_frameBytes op arg unit hk]

theorem cellRead_frameStage_of_gt {j : Nat} (hj : 18 < j) :
    cellRead (frameStage op arg unit s).pkt j = cellRead s.pkt j := by
  rw [frameStage, cellRead_writeBytes, frameBytes_length, if_neg (by omega)]

theorem frameStage_crc : (frameStage op arg unit s).crc = frameCrc op arg unit := crc16_frameHead op arg unit

end

/-- Settles O13: FRAME completes in the state `frameStage` leaves. -/
theorem frameAssemblesRawFrame : Obligations.FrameAssemblesRawFrame := by
  intro op arg unit s
  refine ⟨logAct (.completed s.res) (frameStage op arg unit s), rfl, ?_,
    fun _ => cellRead_frameStage op arg unit s, fun j hj => ?_⟩
  · rw [← frameStage_crc op arg unit s]
    rfl
  · exact hj.elim (cellRead_frameStage_of_lt op arg unit) (cellRead_frameStage_of_gt op arg unit s)

end Sys2Proof.Machine
end

section
/-! SUPPORT. The convolutional encoder in closed form (42_convolutional.md R502): CSR is the MSB-first packing of the
bits fed so far, so its bit d is the input bit from d steps earlier, and FECENC's parity bytes are one stream of
parity bits over the stream of frame bits. With what each stage does when a byte it reads is unwritten
(60_exceptions.md R812). -/

namespace Sys2Proof.Machine

open Sys2Proof.Laws

/-! ## Bytes as a stream of bits, LSB first (42_convolutional.md R500) -/

/-- Bit i of a byte packed LSB-first. -/
theorem getLsbD_ofBitsLsb (xs : List Bool) {i : Nat} (hi : i < 8) : (ofBitsLsb xs).getLsbD i = xs.getD i false := by
  have hrev : ofBitsLsb xs = ofBitsMsb xs.reverse := by rw [ofBitsLsb, ofBitsMsb, List.foldl_reverse]
  rw [hrev, getLsbD_ofBitsMsb _ hi, List.reverse_reverse]

theorem bitsLsb_length (b : Byte) : (bitsLsb b).length = 8 := rfl

theorem getElem?_bitsLsb (b : Byte) {i : Nat} (hi : i < 8) : (bitsLsb b)[i]? = some (b.getLsbD i) := by
  interval_cases i <;> rfl

/-- Eight bits packed and unpacked are themselves. -/
theorem bitsLsb_ofBitsLsb {xs : List Bool} (hlen : xs.length = 8) : bitsLsb (ofBitsLsb xs) = xs := by
  refine List.ext_getElem? fun i => ?_
  by_cases hi : i < 8
  · rw [getElem?_bitsLsb _ hi, getLsbD_ofBitsLsb _ hi, List.getD_eq_getElem?_getD,
      List.getElem?_eq_getElem (by omega), Option.getD_some]
  · rw [List.getElem?_eq_none (by rw [bitsLsb_length]; omega), List.getElem?_eq_none (by omega)]

/-- The bits of a byte sequence, LSB first within each byte: R502's input bits, of the raw frame. -/
def lsbStream (bs : List Byte) : List Bool := bs.flatMap bitsLsb

@[simp] theorem lsbStream_cons (b : Byte) (bs : List Byte) : lsbStream (b :: bs) = bitsLsb b ++ lsbStream bs := rfl

theorem lsbStream_length (bs : List Byte) : (lsbStream bs).length = 8 * bs.length := by
  simp [lsbStream, bitsLsb_length, List.length_flatMap, Nat.mul_comm]

/-- Position n of the stream is bit n mod 8 of byte n div 8. -/
theorem lsbStream_getD (bs : List Byte) (n : Nat) :
    (lsbStream bs).getD n false = (bs.getD (n / 8) 0).getLsbD (n % 8) := by
  induction bs generalizing n with
  | nil => simp [lsbStream]
  | cons b bs ih =>
    rw [lsbStream_cons, List.getD_eq_getElem?_getD]
    rcases Nat.lt_or_ge n 8 with hn | hn
    · rw [List.getElem?_append_left hn, getElem?_bitsLsb b hn, Nat.div_eq_of_lt hn, Nat.mod_eq_of_lt hn]
      rfl
    · obtain ⟨k, rfl⟩ := Nat.exists_eq_add_of_le' hn
      rw [List.getElem?_append_right hn, bitsLsb_length, Nat.add_sub_cancel, ← List.getD_eq_getElem?_getD, ih,
        Nat.add_div_right k (by decide), Nat.add_mod_right, List.getD_cons_succ]

/-! ## The shift register (42_convolutional.md R499, R500) -/

theorem csrParity_eq (csr : Byte) :
    csrParity csr = ((csr.getLsbD 0 ^^ csr.getLsbD 2) ^^ (csr.getLsbD 5 ^^ csr.getLsbD 6)) := by
  simp [csrParity, CONV_TAPS, Bool.xor_comm]

theorem fecBits_fst (csr : Byte) (xs : List Bool) : (fecBits csr xs).1 = xs.foldl csrShift csr := by
  induction xs generalizing csr with
  | nil => rfl
  | cons x xs ih => exact ih (csrShift csr x)

theorem fecBits_snd_length (csr : Byte) (xs : List Bool) : (fecBits csr xs).2.length = xs.length := by
  induction xs generalizing csr with
  | nil => rfl
  | cons x xs ih => exact congrArg (· + 1) (ih (csrShift csr x))

/-- The parity bit for input n is that of CSR after the inputs up to n. -/
theorem fecBits_snd_getD (csr : Byte) {xs : List Bool} {n : Nat} (hn : n < xs.length) :
    (fecBits csr xs).2.getD n false = csrParity ((xs.take (n + 1)).foldl csrShift csr) := by
  induction xs generalizing csr n with
  | nil => cases hn
  | cons x xs ih =>
    cases n with
    | zero => rfl
    | succ n => exact ih (csrShift csr x) (Nat.lt_of_succ_lt_succ hn)

/-- Bits fed after others find the CSR those left. -/
theorem fecBits_append (csr : Byte) (xs ys : List Bool) :
    fecBits csr (xs ++ ys) =
      ((fecBits (fecBits csr xs).1 ys).1, (fecBits csr xs).2 ++ (fecBits (fecBits csr xs).1 ys).2) := by
  induction xs generalizing csr with
  | nil => rfl
  | cons x xs ih => simp [fecBits, ih]

/-- CSR is carried from byte to byte, so a byte sequence is encoded as its stream of bits. -/
theorem fecBytes_eq_fecBits (csr : Byte) (ds : List Byte) :
    ((fecBytes csr ds).1, lsbStream (fecBytes csr ds).2) = fecBits csr (lsbStream ds) := by
  induction ds generalizing csr with
  | nil => rfl
  | cons d ds ih =>
    have hpack : bitsLsb (fecByte csr d).2 = (fecBits csr (bitsLsb d)).2 :=
      bitsLsb_ofBitsLsb (fecBits_snd_length csr (bitsLsb d))
    rw [lsbStream_cons, fecBits_append, ← ih, ← hpack]
    rfl

/-- Fed from 0, CSR packs the bits MSB-first: bit d after the inputs up to t is the input from d steps earlier, and 0
before the first (R499, R501). -/
theorem getLsbD_foldl_csrShift {xs : List Bool} {t d : Nat} (ht : t < xs.length) (hd : d < 8) :
    ((xs.take (t + 1)).foldl csrShift 0).getLsbD d = if d ≤ t then xs.getD (t - d) false else false := by
  have hpack : (xs.take (t + 1)).foldl csrShift 0 = ofBitsMsb (xs.take (t + 1)) := rfl
  have hlen : (xs.take (t + 1)).length = t + 1 := List.length_take_of_le ht
  rw [hpack, getLsbD_ofBitsMsb _ hd, List.getD_eq_getElem?_getD]
  split
  · next hle =>
    rw [List.getElem?_reverse (by omega), hlen, Nat.add_sub_cancel, List.getElem?_take_of_lt (by omega),
      List.getD_eq_getElem?_getD]
  · rw [List.getElem?_eq_none (by rw [List.length_reverse]; omega), Option.getD_none]

/-! ## FECENC in closed form (42_convolutional.md R502) -/

theorem pktByte_of_readBytes {m : Memory} {i n : Nat} {bs : List Byte} (hr : readBytes m i n = some bs) {k : Nat}
    (hk : k < n) : pktByte m (i + k) = bs.getD k 0 := by
  obtain ⟨-, hcells⟩ := readBytes_eq_some.1 hr
  rw [pktByte, hcells k hk, List.getD_eq_getElem?_getD]

section

variable {s t : State}

/-- Bit d of CSR after input n is R502's x[n - d]. -/
theorem getLsbD_csr_eq_frameBit {ds : List Byte} (hds : readBytes s.pkt 12 7 = some ds) {n d : Nat} (hn : n < 56)
    (hd : d < 8) : (((lsbStream ds).take (n + 1)).foldl csrShift 0).getLsbD d = frameBit s.pkt n d := by
  have hlen : (lsbStream ds).length = 56 := by rw [lsbStream_length, (readBytes_eq_some.1 hds).1]
  rw [getLsbD_foldl_csrShift (by omega) hd, lsbStream_getD, frameBit, pktByte_of_readBytes hds (by omega)]

theorem getLsbD_fecStage_csr (ht : fecStage s = some t) {d : Nat} (hd : d < 8) :
    t.csr.getLsbD d = frameBit s.pkt 55 d := by
  obtain ⟨ds, hds, rfl⟩ := fecStage_eq_some ht
  have hall : (lsbStream ds).take 56 = lsbStream ds :=
    List.take_of_length_le (by rw [lsbStream_length, (readBytes_eq_some.1 hds).1])
  have hcsr : (fecBytes 0 ds).1 = (lsbStream ds).foldl csrShift 0 :=
    (congrArg Prod.fst (fecBytes_eq_fecBits 0 ds)).trans (fecBits_fst 0 _)
  rw [← getLsbD_csr_eq_frameBit hds (by decide) hd, hall, ← hcsr]

theorem getLsbD_fecStage_parity (ht : fecStage s = some t) {n : Nat} (hn : n < 56) :
    (pktByte t.pkt (19 + n / 8)).getLsbD (n % 8) = parityBit s.pkt n := by
  obtain ⟨ds, hds, rfl⟩ := fecStage_eq_some ht
  have hdsLen : ds.length = 7 := (readBytes_eq_some.1 hds).1
  have hparity := readBytes_writeBytes s.pkt 19 (fecBytes 0 ds).2
  have hstream : lsbStream (fecBytes 0 ds).2 = (fecBits 0 (lsbStream ds)).2 :=
    congrArg Prod.snd (fecBytes_eq_fecBits 0 ds)
  calc (pktByte (writeBytes s.pkt 19 (fecBytes 0 ds).2) (19 + n / 8)).getLsbD (n % 8)
      = ((fecBytes 0 ds).2.getD (n / 8) 0).getLsbD (n % 8) := by
        rw [pktByte_of_readBytes hparity (by rw [fecBytes_length]; omega)]
    _ = (fecBits 0 (lsbStream ds)).2.getD n false := by rw [← lsbStream_getD, hstream]
    _ = csrParity (((lsbStream ds).take (n + 1)).foldl csrShift 0) :=
        fecBits_snd_getD 0 (by rw [lsbStream_length]; omega)
    _ = parityBit s.pkt n := by
        simp only [csrParity_eq, getLsbD_csr_eq_frameBit hds hn, Nat.reduceLT, parityBit]

theorem fecStage_written (ht : fecStage s = some t) : written t.pkt 19 26 := by
  obtain ⟨ds, hds, rfl⟩ := fecStage_eq_some ht
  have hlen : (fecBytes 0 ds).2.length = 7 := (fecBytes_length 0 ds).trans (readBytes_eq_some.1 hds).1
  exact fun j hlo hhi => cellRead_writeBytes_isSome (.inl ⟨hlo, by omega⟩)

theorem cellRead_fecStage_of_gt (ht : fecStage s = some t) {j : Nat} (hj : 25 < j) :
    cellRead t.pkt j = cellRead s.pkt j := by
  obtain ⟨ds, hds, rfl⟩ := fecStage_eq_some ht
  have hlen : (fecBytes 0 ds).2.length = 7 := (fecBytes_length 0 ds).trans (readBytes_eq_some.1 hds).1
  rw [cellRead_writeBytes, if_neg (by omega)]

end

/-- Settles O17: FECENC completes in the state `fecStage` leaves, whose CSR after each input holds the last eight
inputs, so that the tapped bits are R502's delayed inputs. -/
theorem fecencParityClosedForm : Obligations.FecencParityClosedForm := by
  intro s hwritten
  obtain ⟨ds, hds⟩ := readBytes_isSome (n := 7) hwritten
  have hstage := fecStage_of_readBytes hds
  refine ⟨_, exec_fecenc_of_some hstage, rfl, (fecStage_written hstage :), fun _ => (getLsbD_fecStage_parity hstage :),
    fun _ => (getLsbD_fecStage_csr hstage :), fun j hj => ?_⟩
  rw [logAct_pkt]
  exact hj.elim (cellRead_fecStage_of_lt hstage) (cellRead_fecStage_of_gt hstage)

/-! ## A stage that would read an unwritten byte (60_exceptions.md R812) -/

/-- A stage's reads fail when an index of the run holds no value. -/
theorem readBytes_eq_none_of_not_written {m : Memory} {i n : Nat} (h : ¬ written m i (i + n)) :
    readBytes m i n = none := by
  simp only [written, not_forall, Bool.not_eq_true, Option.isSome_eq_false_iff, Option.isNone_iff_eq_none] at h
  obtain ⟨j, hlo, hhi, hnone⟩ := h
  exact readBytes_eq_none.2 ⟨j - i, by omega, by rwa [Nat.add_sub_cancel' hlo]⟩

section

variable {s : State}

theorem exec_ilv_of_unwritten (hpayload : readBytes s.pkt 12 14 = none) :
    exec .ilv s = .next (raiseFault .uninit s) := by
  rw [exec, execIlv, ilvStage, show CODED_LEN = 14 from rfl, hpayload, completeStage, failWith_eq]

theorem exec_diff_of_unwritten (hpacket : readBytes s.pkt 0 26 = none) :
    exec .diff s = .next (raiseFault .uninit s) := by
  rw [exec, execDiff, diffStage, show PACKET_LEN = 26 from rfl, hpacket, completeStage, failWith_eq]

end

/-- Settles O21: each stage makes all its reads first, and a failed run of reads ends it with UNINIT. -/
theorem stagesCheckBeforeTheyWrite : Obligations.StagesCheckBeforeTheyWrite := fun _ =>
  ⟨fun h => exec_fecenc_of_unwritten (readBytes_eq_none_of_not_written h),
    fun h => exec_ilv_of_unwritten (readBytes_eq_none_of_not_written h),
    fun h => exec_diff_of_unwritten (readBytes_eq_none_of_not_written h)⟩

end Sys2Proof.Machine
end

section
/-! SUPPORT. The interleaver in closed form (43_interleave.md R551, R552): the running index meets slot k(i) at step i,
so the output's bit stream is the input's read through the inverse permutation, whose powers are those of 7
modulo 111. -/

namespace Sys2Proof.Machine

open Sys2Proof.Laws

/-! ## Bytes as a stream of bits, MSB first (43_interleave.md R552) -/

@[simp] theorem bitstream_cons (b : Byte) (bs : List Byte) : bitstream (b :: bs) = bitsMsb b ++ bitstream bs := rfl

theorem bitsMsb_eq_bitsLsb_reverse (b : Byte) : bitsMsb b = bitsLsb b.reverse := by
  simp [bitsMsb, bitsLsb, BitVec.getElem_reverse, BitVec.getMsbD]

/-- Position n of the stream is bit 7 - n mod 8 of byte n div 8. -/
theorem bitstream_getD (bs : List Byte) (n : Nat) :
    (bitstream bs).getD n false = (bs.getD (n / 8) 0).getLsbD (7 - n % 8) := by
  have hstream : bitstream bs = lsbStream (bs.map BitVec.reverse) := by
    rw [bitstream, lsbStream, List.flatMap_map, funext bitsMsb_eq_bitsLsb_reverse]
  have hbyte : (bs.map BitVec.reverse).getD (n / 8) 0 = (bs.getD (n / 8) 0).reverse :=
    List.getD_map bs (n := n / 8) 0 BitVec.reverse
  rw [hstream, lsbStream_getD, hbyte, BitVec.getLsbD_reverse, BitVec.getMsbD]
  simp [Nat.mod_lt]

/-- Eight bits packed and unpacked are themselves. -/
theorem bitsMsb_ofBitsMsb {xs : List Bool} (hlen : xs.length = 8) : bitsMsb (ofBitsMsb xs) = xs := by
  have hpack : ofBitsMsb xs = ofBitsLsb xs.reverse := by rw [ofBitsLsb, ofBitsMsb, List.foldr_reverse]
  calc bitsMsb (ofBitsMsb xs) = (bitsLsb (ofBitsLsb xs.reverse)).reverse := by rw [hpack]; rfl
    _ = xs := by rw [bitsLsb_ofBitsLsb (by rwa [List.length_reverse]), List.reverse_reverse]

theorem bitstream_packMsb {xs : List Bool} {n : Nat} (hlen : xs.length = 8 * n) : bitstream (packMsb xs n) = xs := by
  induction n generalizing xs with
  | zero => exact (List.eq_nil_of_length_eq_zero hlen).symm
  | succ n ih =>
    rw [packMsb, bitstream_cons, bitsMsb_ofBitsMsb (by rw [List.length_take]; omega),
      ih (by rw [List.length_drop]; omega), List.take_append_drop]

/-! ## The running index (43_interleave.md R550, R551) -/

/-- k(i), the slot that input bit i is written to (R551). -/
def ilvSlot (i : Nat) : Nat := 16 * (i % 7) + i / 7

/-- The input bit that slot p takes (R552). -/
def ilvSource (p : Nat) : Nat := 7 * (p % 16) + p / 16

theorem ilvSource_lt {p : Nat} (hp : p < 112) : ilvSource p < 112 := by
  rw [ilvSource]
  omega

theorem ilvSlot_lt {i : Nat} (hi : i < 112) : ilvSlot i < 112 := by
  rw [ilvSlot]
  omega

theorem ilvSlot_eq_iff {i p : Nat} (hi : i < 112) (hp : p < 112) : ilvSlot i = p ↔ i = ilvSource p := by
  rw [ilvSlot, ilvSource]
  omega

/-- Six steps of seven add 16; the seventh folds, a net +1 from where the run began. -/
theorem ilvNext_ilvSlot {i : Nat} (hi : i < 112) : ilvNext (ilvSlot i) = ilvSlot (i + 1) := by
  rw [ilvNext, ilvSlot, ilvSlot, ILV_STRIDE, show ILV_BITS = 112 from rfl, show ILV_FOLD = 111 from rfl]
  split <;> omega

/-! ## The scatter (43_interleave.md R550) -/

theorem ilvScatter_length (k : Nat) (ibits xs : List Bool) : (ilvScatter k ibits xs).length = ibits.length := by
  induction xs generalizing k ibits with
  | nil => rfl
  | cons x xs ih => rw [ilvScatter, ih, List.length_set]

/-- From step n on, the slots whose input bit is among the bits still to come take it, and the others stay. -/
theorem getElem?_ilvScatter {ibits xs : List Bool} {n p : Nat} (hibits : ibits.length = 112)
    (hxs : n + xs.length ≤ 112) (hp : p < 112) :
    (ilvScatter (ilvSlot n) ibits xs)[p]? =
      if n ≤ ilvSource p ∧ ilvSource p < n + xs.length then xs[ilvSource p - n]? else ibits[p]? := by
  induction xs generalizing n ibits with
  | nil => rw [ilvScatter, if_neg (by simp)]
  | cons x xs ih =>
    rw [List.length_cons] at hxs
    have hn : n < 112 := by omega
    rw [ilvScatter, ilvNext_ilvSlot hn, ih (by rwa [List.length_set]) (by omega), List.length_cons]
    rcases Nat.lt_trichotomy (ilvSource p) n with hlt | heq | hgt
    · rw [if_neg (by omega), if_neg (by omega), List.getElem?_set_ne (mt (ilvSlot_eq_iff hn hp).1 hlt.ne')]
    · have hslot : ilvSlot n = p := (ilvSlot_eq_iff hn hp).2 heq.symm
      rw [if_neg (by omega), if_pos (by omega), hslot, List.getElem?_set_self (by omega), heq, Nat.sub_self]
      rfl
    · obtain ⟨d, hd⟩ := Nat.exists_eq_add_of_lt hgt
      have hsub : ilvSource p - n = d + 1 ∧ ilvSource p - (n + 1) = d := by omega
      rw [List.getElem?_set_ne (mt (ilvSlot_eq_iff hn hp).1 hgt.ne), hsub.1, hsub.2, List.getElem?_cons_succ]
      exact if_congr (by omega) rfl rfl

/-- Slot p of the output takes input bit 7 (p mod 16) + p div 16. -/
theorem bitstream_ilvBytes {cs : List Byte} (hcs : cs.length = 14) {p : Nat} (hp : p < 112) :
    (bitstream (ilvBytes cs)).getD p false = (bitstream cs).getD (ilvSource p) false := by
  have hlen : (bitstream cs).length = 112 := by rw [bitstream_length, hcs]
  have hsource := ilvSource_lt hp
  rw [ilvBytes, bitstream_packMsb (by rw [ilvScatter_length, List.length_replicate]; rfl),
    List.getD_eq_getElem?_getD, List.getD_eq_getElem?_getD, show 0 = ilvSlot 0 from rfl,
    getElem?_ilvScatter (by rw [List.length_replicate]; rfl) (by omega) hp, if_pos (by omega), Nat.sub_zero]

/-! ## Packet buffers that differ by interleavings (43_interleave.md R552) -/

theorem payloadBit_of_readBytes {m : Memory} {cs : List Byte} (hr : readBytes m 12 14 = some cs) {q : Nat}
    (hq : q < 112) : payloadBit m q = (bitstream cs).getD q false := by
  rw [payloadBit, pktByte_of_readBytes hr (by omega), bitstream_getD]

/-- Payloads that agree bit by bit agree byte by byte. -/
theorem cellRead_eq_of_payloadBit_eq {m m' : Memory} (hm : written m 12 26) (hm' : written m' 12 26)
    (hbits : ∀ q, q < 112 → payloadBit m q = payloadBit m' q) {j : Nat} (hlo : 12 ≤ j) (hhi : j < 26) :
    cellRead m j = cellRead m' j := by
  obtain ⟨b, hb⟩ := Option.isSome_iff_exists.1 (hm j hlo hhi)
  obtain ⟨b', hb'⟩ := Option.isSome_iff_exists.1 (hm' j hlo hhi)
  have hbyte : b = b' := BitVec.eq_of_getLsbD_eq fun i hi => by
    have hpos : 12 + (8 * (j - 12) + (7 - i)) / 8 = j ∧ 7 - (8 * (j - 12) + (7 - i)) % 8 = i := by omega
    simpa only [payloadBit, pktByte, hpos, hb, hb', Option.getD_some] using hbits (8 * (j - 12) + (7 - i)) (by omega)
  rw [hb, hb', hbyte]

/-- `m'` holds the written payload of `m` interleaved n times, and is `m` elsewhere. -/
structure Interleaved (n : Nat) (m m' : Memory) : Prop where
  payload_written : written m' 12 26
  payload_bits : ∀ p, p < 112 → payloadBit m' p = payloadBit m (ilvSource^[n] p)
  elsewhere : ∀ j, j < 12 ∨ 25 < j → cellRead m' j = cellRead m j
  keeps_wf : m.wf → m'.wf

theorem iterate_ilvSource_lt (n : Nat) {p : Nat} (hp : p < 112) : ilvSource^[n] p < 112 :=
  Set.MapsTo.iterate (f := ilvSource) (s := Set.Iio 112) (fun _ => ilvSource_lt) n hp

theorem Interleaved.zero {m : Memory} (hm : written m 12 26) : Interleaved 0 m m where
  payload_written := hm
  payload_bits := fun _ _ => rfl
  elsewhere := fun _ _ => rfl
  keeps_wf := id

theorem Interleaved.trans {n k : Nat} {m m' m'' : Memory} (h : Interleaved n m m') (h' : Interleaved k m' m'') :
    Interleaved (n + k) m m'' where
  payload_written := h'.payload_written
  payload_bits := fun p hp => by
    rw [h'.payload_bits p hp, h.payload_bits _ (iterate_ilvSource_lt k hp), Function.iterate_add_apply]
  elsewhere := fun j hj => (h'.elsewhere j hj).trans (h.elsewhere j hj)
  keeps_wf := fun hwf => h'.keeps_wf (h.keeps_wf hwf)

/-! ## ILV (43_interleave.md R550) -/

section

variable {s t : State}

theorem ilvStage_isSome (h : written s.pkt 12 26) : ∃ t, ilvStage s = some t := by
  obtain ⟨cs, hcs⟩ := readBytes_isSome (n := 14) h
  exact ⟨_, ilvStage_of_readBytes hcs⟩

theorem ilvStage_interleaved (ht : ilvStage s = some t) : Interleaved 1 s.pkt t.pkt := by
  have hwf : s.pkt.wf → t.pkt.wf := fun h => ilvStage_keeps_wf h ht
  obtain ⟨cs, hcs, rfl⟩ := ilvStage_eq_some ht
  obtain ⟨hcsLen, -⟩ := readBytes_eq_some.1 hcs
  have hlen := ilvBytes_length cs
  have hread : readBytes (writeBytes s.pkt 12 (ilvBytes cs)) 12 14 = some (ilvBytes cs) := by
    rw [← hlen, readBytes_writeBytes]
  exact {
    payload_written := fun j hlo hhi => cellRead_writeBytes_isSome (.inl ⟨hlo, by omega⟩)
    payload_bits := fun p hp => by
      rw [payloadBit_of_readBytes hread hp, bitstream_ilvBytes hcsLen hp, Function.iterate_one,
        payloadBit_of_readBytes hcs (ilvSource_lt hp)]
    elsewhere := fun j hj => by rw [cellRead_writeBytes, if_neg (by omega)]
    keeps_wf := hwf }

/-- ILVs one after the other complete, each on the payload the one before left. -/
theorem execAll_replicate_ilv (n : Nat) (h : written s.pkt 12 26) :
    ∃ t, execAll (List.replicate n .ilv) s = .next t ∧ Interleaved n s.pkt t.pkt := by
  induction n generalizing s with
  | zero => exact ⟨s, rfl, .zero h⟩
  | succ n ih =>
    obtain ⟨u, hu⟩ := ilvStage_isSome h
    have hfirst := ilvStage_interleaved hu
    obtain ⟨t, hrun, hrest⟩ := ih (s := logAct (.completed u.res) u) hfirst.payload_written
    refine ⟨t, ?_, Nat.add_comm 1 n ▸ hfirst.trans hrest⟩
    rw [List.replicate_succ, execAll, exec_ilv_of_some hu, complete_eq]
    exact hrun

end

/-- Settles O18: ILV completes in the state `ilvStage` leaves, and its slot for input bit i is k(i). -/
theorem ilvPermutesPayloadBits : Obligations.IlvPermutesPayloadBits := by
  intro s hwritten
  obtain ⟨t, ht⟩ := ilvStage_isSome hwritten
  have h := ilvStage_interleaved ht
  refine ⟨_, exec_ilv_of_some ht, ?_, h.payload_written, fun i hi => ?_, h.payload_bits, h.elsewhere⟩
  · obtain ⟨cs, -, rfl⟩ := ilvStage_eq_some ht
    rfl
  · have hsource : ilvSource (ilvSlot i) = i := ((ilvSlot_eq_iff hi (ilvSlot_lt hi)).1 rfl).symm
    exact (h.payload_bits (ilvSlot i) (ilvSlot_lt hi)).trans (congrArg (payloadBit s.pkt) hsource)

/-! ## The permutation has order 9 (95_test_vectors.md) -/

/-- 16 and 7 are inverse modulo 111. -/
theorem ilvSource_modEq (p : Nat) : ilvSource p ≡ 7 * p [MOD 111] := by
  rw [ilvSource, Nat.ModEq]
  omega

theorem iterate_ilvSource_modEq (n p : Nat) : ilvSource^[n] p ≡ 7 ^ n * p [MOD 111] := by
  induction n with
  | zero => rw [pow_zero, one_mul, Function.iterate_zero_apply]
  | succ n ih =>
    rw [Function.iterate_succ_apply', pow_succ', mul_assoc]
    exact (ilvSource_modEq _).trans (ih.mul_left 7)

theorem iterate_ilvSource_eq_zero_iff (n p : Nat) : ilvSource^[n] p = 0 ↔ p = 0 := by
  induction n with
  | zero => rfl
  | succ n ih =>
    rw [Function.iterate_succ_apply', ← ih, ilvSource]
    omega

/-- 7 ^ 9 is 1 modulo 111, and of the two positions that are 0 modulo 111 each stays where it is. -/
theorem iterate_nine_ilvSource {p : Nat} (hp : p < 112) : ilvSource^[9] p = p := by
  have hmod : ilvSource^[9] p ≡ p [MOD 111] := by
    simpa using (iterate_ilvSource_modEq 9 p).trans (Nat.ModEq.mul_right p (by decide : 7 ^ 9 ≡ 1 [MOD 111]))
  have hlt := iterate_ilvSource_lt 9 hp
  have hzero := iterate_ilvSource_eq_zero_iff 9 p
  rw [Nat.ModEq] at hmod
  omega

/-- Settles O19: nine ILVs move no bit, and a canonical buffer is determined by what it reads as. -/
theorem nineIlvsRestorePayload : Obligations.NineIlvsRestorePayload := by
  intro s hwf hwritten
  obtain ⟨t, hrun, h⟩ := execAll_replicate_ilv 9 hwritten
  refine ⟨t, hrun, eq_of_cellRead_eq (h.keeps_wf hwf) hwf fun j => ?_⟩
  by_cases hj : 12 ≤ j ∧ j < 26
  · refine cellRead_eq_of_payloadBit_eq h.payload_written hwritten (fun q hq => ?_) hj.1 hj.2
    rw [h.payload_bits q hq, iterate_nine_ilvSource hq]
  · exact h.elsewhere j (by omega)

end Sys2Proof.Machine
end

section
/-! SUPPORT. DIFF on a written packet: the bit it ends with, and the bytes it leaves alone (44_diffcode.md R600, R601). -/

namespace Sys2Proof.Machine

open Sys2Proof.Laws

/-- The carried bit ends as the last bit of the last byte, and stays when there is no byte. -/
theorem diffBytes_fst (p : Bool) (cs : List Byte) : (diffBytes p cs).1 = (cs.map (·.getLsbD 0)).getLastD p := by
  induction cs generalizing p with
  | nil => rfl
  | cons c cs ih => rw [diffBytes, diffByte_eq, ih, List.map_cons, List.getLastD_cons]

section

variable {s t : State}

/-- DPREV ends as the last input bit. -/
theorem diffStage_dprev (ht : diffStage s = some t) : t.dprev = (pktByte s.pkt 25).getLsbD 0 := by
  obtain ⟨cs, hcs, rfl⟩ := diffStage_eq_some ht
  have hlen : cs.length = 26 := (readBytes_eq_some.1 hcs).1
  rw [pktByte_of_readBytes (k := 25) hcs (by omega)]
  simp [diffBytes_fst, List.getLastD_eq_getLast?, List.getLast?_eq_getElem?, hlen]

theorem cellRead_diffStage_of_gt (ht : diffStage s = some t) {j : Nat} (hj : 25 < j) :
    cellRead t.pkt j = cellRead s.pkt j := by
  obtain ⟨cs, hcs, rfl⟩ := diffStage_eq_some ht
  have hlen : (diffBytes false cs).2.length = 26 := (diffBytes_length false cs).trans (readBytes_eq_some.1 hcs).1
  rw [cellRead_writeBytes, if_neg (by omega)]

end

/-- Settles O20: DIFF completes in the state `diffStage` leaves, each byte coded with the bit carried into it. -/
theorem diffCodesEachByte : Obligations.DiffCodesEachByte := by
  intro s hwritten
  obtain ⟨cs, hcs⟩ := readBytes_isSome (n := 26) hwritten
  obtain ⟨t, ht⟩ : ∃ t, diffStage s = some t := ⟨_, diffStage_of_readBytes hcs⟩
  refine ⟨_, exec_diff_of_some ht, ?_, fun i hi => ?_, fun _ => (cellRead_diffStage_of_gt ht :)⟩
  · rw [← diffStage_dprev ht]
    obtain ⟨_, -, rfl⟩ := diffStage_eq_some ht
    rfl
  · obtain ⟨c, hc⟩ := Option.isSome_iff_exists.1 (hwritten i (Nat.zero_le i) hi)
    rw [logAct_pkt, cellRead_diffStage ht hi hc, pktByte, hc, Option.getD_some]

end Sys2Proof.Machine
end

section
/-! SUPPORT. ENCODE in closed form (45_encode.md R654): each bit of the packet on its way through the five stages,
and what they leave in CRC, CSR and DPREV. From it ENCODE's result for every state, and that it depends on the operands
and SYNC_PATTERN alone (R653). -/

namespace Sys2Proof.Machine

open Sys2Proof.Laws

/-- Settles O24: the null destination skips the stages. -/
theorem nullEncodeWritesOnlyRes : Obligations.NullEncodeWritesOnlyRes := fun _ _ _ s =>
  completeWith_eq 0 s

/-! ## The coded frame before the interleaver (42_convolutional.md R502) -/

section

variable {op arg : Byte} {unit : Half} {s t : State}

/-- The raw frame in the packet buffer is R455's. -/
theorem pktByte_frameStage (op arg : Byte) (unit : Half) (s : State) {k : Nat} (hk : k < 7) :
    pktByte (frameStage op arg unit s).pkt (12 + k) = frameByte op arg unit k := by
  rw [pktByte, cellRead_frameStage op arg unit s hk, Option.getD_some]

theorem frameBit_frameStage (op arg : Byte) (unit : Half) (s : State) {n : Nat} (hn : n < 56) (d : Nat) :
    frameBit (frameStage op arg unit s).pkt n d = encFrameBit op arg unit n d := by
  rw [frameBit, encFrameBit, pktByte_frameStage op arg unit s (by omega)]

/-- FECENC on the frame leaves R654's coded bits in the payload: the frame in its first half, the parity in its
second. -/
theorem payloadBit_fecStage_frameStage (ht : fecStage (frameStage op arg unit s) = some t) {q : Nat}
    (hq : q < 112) : payloadBit t.pkt q = encCodedBit op arg unit q := by
  rw [payloadBit, encCodedBit]
  split
  · next hframe =>
    rw [pktByte, cellRead_fecStage_of_lt ht (by omega), ← pktByte, pktByte_frameStage op arg unit s (by omega)]
  · next hparity =>
    have hpos : 12 + q / 8 = 19 + (8 * ((q - 56) / 8) + (7 - q % 8)) / 8 ∧
        7 - q % 8 = (8 * ((q - 56) / 8) + (7 - q % 8)) % 8 := by omega
    have hlt : 8 * ((q - 56) / 8) + (7 - q % 8) < 56 := by omega
    have hbit := getLsbD_fecStage_parity ht hlt
    rw [← hpos.1, ← hpos.2] at hbit
    simp only [hbit, parityBit, frameBit_frameStage op arg unit s hlt]

/-- CSR ends holding the frame's last byte, which is the status byte 0. -/
theorem fecStage_frameStage_csr (ht : fecStage (frameStage op arg unit s) = some t) : t.csr = 0x00 := by
  refine BitVec.eq_of_getLsbD_eq fun d hd => ?_
  have hlast : (55 - d) / 8 = 6 := by omega
  rw [getLsbD_fecStage_csr ht hd, frameBit_frameStage op arg unit s (by decide), encFrameBit, if_pos (by omega), hlast]
  simp [frameByte]

end

/-! ## The plain packet before the line coder (45_encode.md R654) -/

/-- Position n of the packet, MSB first. -/
def packetBit (m : Memory) (n : Nat) : Bool := (pktByte m (n / 8)).getLsbD (7 - n % 8)

/-- The packet's positions from 96 on are the payload's. -/
theorem packetBit_eq_payloadBit (m : Memory) {n : Nat} (hn : 96 ≤ n) : packetBit m n = payloadBit m (n - 96) := by
  have hpos : n / 8 = 12 + (n - 96) / 8 ∧ n % 8 = (n - 96) % 8 := by omega
  rw [packetBit, payloadBit, hpos.1, hpos.2]

/-- A written packet is determined by its bits. -/
theorem cellRead_eq_of_packetBit_eq {m m' : Memory} (hm : written m 0 26) (hm' : written m' 0 26)
    (hbits : ∀ n, n < 208 → packetBit m n = packetBit m' n) {j : Nat} (hj : j < 26) :
    cellRead m j = cellRead m' j := by
  obtain ⟨b, hb⟩ := Option.isSome_iff_exists.1 (hm j (Nat.zero_le j) hj)
  obtain ⟨b', hb'⟩ := Option.isSome_iff_exists.1 (hm' j (Nat.zero_le j) hj)
  have hbyte : b = b' := BitVec.eq_of_getLsbD_eq fun i hi => by
    have hpos : (8 * j + (7 - i)) / 8 = j ∧ 7 - (8 * j + (7 - i)) % 8 = i := by omega
    simpa only [packetBit, pktByte, hpos, hb, hb', Option.getD_some] using hbits (8 * j + (7 - i)) (by omega)
  rw [hb, hb', hbyte]

/-- LEADER's bits: zeros, then SYNC_PATTERN. -/
theorem packetBit_leader {m : Memory} {s : State} (hm : ∀ j, j < 12 → cellRead m j = cellRead (leaderStage s).pkt j)
    (op arg : Byte) (unit : Half) {n : Nat} (hn : n < 96) : packetBit m n = encPlainBit s.cfg op arg unit n := by
  rw [packetBit, pktByte, hm _ (by omega), encPlainBit]
  split
  · next hpreamble =>
    rw [cellRead_leaderStage_of_lt s (by omega)]
    simp
  · next hsync =>
    have hpos : n / 8 = 7 + (n - 56) / 8 := by omega
    rw [hpos, cellRead_leaderStage_sync s (by omega), syncBytes_eq, List.getD_eq_getElem?_getD]

section

variable {op arg : Byte} {unit : Half} {s t : State}

/-- FECENC writes PKT and CSR only. -/
theorem fecStage_crc (ht : fecStage s = some t) : t.crc = s.crc := by
  obtain ⟨_, -, rfl⟩ := fecStage_eq_some ht
  rfl

/-- ILV writes PKT only. -/
theorem ilvStage_crc_csr (ht : ilvStage s = some t) : t.crc = s.crc ∧ t.csr = s.csr := by
  obtain ⟨_, -, rfl⟩ := ilvStage_eq_some ht
  exact ⟨rfl, rfl⟩

/-- DIFF writes PKT and DPREV only. -/
theorem diffStage_crc_csr (ht : diffStage s = some t) : t.crc = s.crc ∧ t.csr = s.csr := by
  obtain ⟨_, -, rfl⟩ := diffStage_eq_some ht
  exact ⟨rfl, rfl⟩

theorem diffStage_reads_written (ht : diffStage s = some t) : written s.pkt 0 26 := by
  obtain ⟨cs, hcs, -⟩ := diffStage_eq_some ht
  obtain ⟨hlen, hcells⟩ := readBytes_eq_some.1 hcs
  intro j _ hj
  have hcell : cellRead s.pkt j = cs[j]? := by simpa using hcells j hj
  simp [hcell, hlen, hj]

/-- What the line coder finds: every bit of the plain packet, the registers the earlier stages left, and the bytes
past the packet as they were. -/
structure PlainPacket (op arg : Byte) (unit : Half) (s v : State) : Prop where
  packet_written : written v.pkt 0 26
  bits : ∀ n, n < 208 → packetBit v.pkt n = encPlainBit s.cfg op arg unit n
  crc : v.crc = frameCrc op arg unit
  csr : v.csr = 0x00
  elsewhere : ∀ j, 25 < j → cellRead v.pkt j = cellRead s.pkt j

theorem encodeStages_plainPacket (ht : encodeStages op arg unit s = some t) :
    ∃ v, diffStage v = some t ∧ PlainPacket op arg unit s v := by
  obtain ⟨u, v, hfec, hilv, hdiff⟩ := encodeStages_eq_some ht
  have hinter := ilvStage_interleaved hilv
  obtain ⟨hcrc, hcsr⟩ := ilvStage_crc_csr hilv
  have hleader : ∀ j, j < 12 → cellRead v.pkt j = cellRead (leaderStage s).pkt j := fun j hj => by
    rw [cellRead_ilvStage_of_lt hilv hj, cellRead_fecStage_of_lt hfec (by omega),
      cellRead_frameStage_of_lt op arg unit hj]
  have hpayload : ∀ q, q < 112 → payloadBit v.pkt q = encCodedBit op arg unit (ilvSource q) := fun q hq => by
    rw [hinter.payload_bits q hq, Function.iterate_one, payloadBit_fecStage_frameStage hfec (ilvSource_lt hq)]
  refine ⟨v, hdiff, {
    packet_written := diffStage_reads_written hdiff
    bits := fun n hn => ?_
    crc := by rw [hcrc, fecStage_crc hfec, frameStage_crc]
    csr := by rw [hcsr, fecStage_frameStage_csr hfec]
    elsewhere := fun j hj => ?_ }⟩
  · rcases Nat.lt_or_ge n 96 with hlt | hge
    · exact packetBit_leader hleader op arg unit hlt
    · rw [packetBit_eq_payloadBit _ hge, hpayload _ (by omega), encPlainBit, if_neg (by omega), if_neg (by omega),
        ilvSource]
  · rw [hinter.elsewhere j (.inr hj), cellRead_fecStage_of_gt hfec hj,
      cellRead_frameStage_of_gt op arg unit _ (by omega), cellRead_leaderStage_of_gt s (by omega)]

/-! ## The line coder bit by bit (44_diffcode.md R600) -/

/-- A coded bit is 1 exactly when the bit equals the one before it; the one before the first is DIFF_INIT. -/
theorem packetBit_diffStage (ht : diffStage s = some t) {n : Nat} (hn : n < 208) :
    packetBit t.pkt n = (packetBit s.pkt n == if n = 0 then false else packetBit s.pkt (n - 1)) := by
  obtain ⟨c, hc⟩ := Option.isSome_iff_exists.1 (diffStage_reads_written ht (n / 8) (Nat.zero_le _) (by omega))
  have hbit : packetBit s.pkt n = c.getLsbD (7 - n % 8) := by rw [packetBit, pktByte, hc, Option.getD_some]
  have hbefore : (if 7 - n % 8 = 7 then carriedBit s.pkt (n / 8) else c.getLsbD (7 - n % 8 + 1)) =
      if n = 0 then false else packetBit s.pkt (n - 1) := by
    rcases Nat.eq_zero_or_pos n with rfl | hn0
    · rfl
    rw [if_neg (show ¬ n = 0 by omega), packetBit]
    rcases Nat.eq_zero_or_pos (n % 8) with hfirst | hlater
    · have hpos : n / 8 - 1 = (n - 1) / 8 ∧ 7 - (n - 1) % 8 = 0 := by omega
      rw [if_pos (by omega), carriedBit, if_neg (by omega), hpos.1, hpos.2]
    · have hpos : (n - 1) / 8 = n / 8 ∧ 7 - (n - 1) % 8 = 7 - n % 8 + 1 := by omega
      rw [if_neg (by omega), hpos.1, hpos.2, pktByte, hc, Option.getD_some]
  rw [hbit, ← hbefore, packetBit, pktByte, cellRead_diffStage ht (by omega) hc, Option.getD_some,
    getLsbD_lineCode _ _ (by omega), ← Bool.bne_eq_xor, bne, Bool.not_not]

/-! ## ENCODE (45_encode.md R650 to R654) -/

/-- What ENCODE's stages leave. -/
structure Encoded (op arg : Byte) (unit : Half) (s t : State) : Prop where
  frame : t = { s with
    pkt := t.pkt, crc := frameCrc op arg unit, csr := 0x00, dprev := encPlainBit s.cfg op arg unit 207 }
  packet_written : written t.pkt 0 26
  bits : ∀ n, n < 208 → packetBit t.pkt n = encBit s.cfg op arg unit n
  elsewhere : ∀ j, 25 < j → cellRead t.pkt j = cellRead s.pkt j

theorem encodeStages_encoded (ht : encodeStages op arg unit s = some t) : Encoded op arg unit s t := by
  obtain ⟨v, hdiff, hplain⟩ := encodeStages_plainPacket ht
  obtain ⟨hcrc, hcsr⟩ := diffStage_crc_csr hdiff
  have hdprev : t.dprev = encPlainBit s.cfg op arg unit 207 :=
    (diffStage_dprev hdiff).trans (hplain.bits 207 (by decide))
  refine {
    frame := ?_
    packet_written := fun j _ hj => ?_
    bits := fun n hn => ?_
    elsewhere := fun j hj => (cellRead_diffStage_of_gt hdiff hj).trans (hplain.elsewhere j hj) }
  · rw [← hdprev, ← hplain.crc, ← hplain.csr, ← hcrc, ← hcsr]
    exact encodeStages_frame ht
  · obtain ⟨c, hc⟩ := Option.isSome_iff_exists.1 (hplain.packet_written j (Nat.zero_le j) hj)
    rw [cellRead_diffStage hdiff hj hc, Option.isSome_some]
  · rw [packetBit_diffStage hdiff hn, encBit, hplain.bits n hn]
    split
    · rfl
    · rw [hplain.bits (n - 1) (by omega)]

end

/-- Settles O23: ENCODE leaves what its stages leave, and 26 in RES. -/
theorem encodeLeavesEncodedPacket : Obligations.EncodeLeavesEncodedPacket := by
  intro op arg unit s
  obtain ⟨t, ht⟩ := encodeStages_isSome op arg unit s
  obtain ⟨hframe, hwritten, hbits, helsewhere⟩ := encodeStages_encoded ht
  refine ⟨_, exec_encode_of_some ht, ?_, hwritten, hbits, helsewhere⟩
  rw [hframe]
  rfl

/-! ## ENCODE as a function (45_encode.md R653) -/

/-- R654's bits read no parameter but SYNC_PATTERN. -/
theorem encBit_congr {p p' : Params} (h : p.sync = p'.sync) (op arg : Byte) (unit : Half) (n : Nat) :
    encBit p op arg unit n = encBit p' op arg unit n := by
  simp only [encBit, encPlainBit, syncBytes_eq, h]

theorem cellRead_of_gt {m : Memory} (hwf : m.wf) {j : Nat} (hj : 25 < j) : cellRead m j = none := by
  refine Option.eq_none_iff_forall_ne_some.2 fun v hv => ?_
  have hle : j ≤ 25 := hwf.2 _ (mem_of_cellRead hv)
  omega

/-- Canonical buffers that hold the same packet are equal data. -/
theorem eq_of_packetBit_eq {m m' : Memory} (hwf : m.wf) (hwf' : m'.wf) (hm : written m 0 26) (hm' : written m' 0 26)
    (hbits : ∀ n, n < 208 → packetBit m n = packetBit m' n) : m = m' := by
  refine eq_of_cellRead_eq hwf hwf' fun j => ?_
  rcases Nat.lt_or_ge j 26 with hlt | hge
  · exact cellRead_eq_of_packetBit_eq hm hm' hbits hlt
  · rw [cellRead_of_gt hwf hge, cellRead_of_gt hwf' hge]

/-- Settles O25: with N = 0 both end with R654's bits, and with N = 1 both write RES only. -/
theorem encodeIsPure : Obligations.EncodeIsPure := by
  intro op arg unit null s s' hwf hwf' hsync
  cases null with
  | true =>
    exact ⟨_, _, nullEncodeWritesOnlyRes op arg unit s, nullEncodeWritesOnlyRes op arg unit s', rfl, by simp⟩
  | false =>
    obtain ⟨t, ht⟩ := encodeStages_isSome op arg unit s
    obtain ⟨t', ht'⟩ := encodeStages_isSome op arg unit s'
    have hencoded := encodeStages_encoded ht
    have hencoded' := encodeStages_encoded ht'
    have hpkt : t.pkt = t'.pkt :=
      eq_of_packetBit_eq (encodeStages_keeps_wf hwf ht) (encodeStages_keeps_wf hwf' ht') hencoded.packet_written
        hencoded'.packet_written fun n hn => by
          rw [hencoded.bits n hn, hencoded'.bits n hn, encBit_congr hsync]
    exact ⟨_, _, exec_encode_of_some ht, exec_encode_of_some ht', rfl, fun _ => hpkt, by simp⟩

end Sys2Proof.Machine
end

section
/-! SUPPORT. Transmissions under the eager schedule (95_test_vectors.md Level 3; log entry 4): runs, waits that end at
their target, the calls between two waits, the symbols one after the other (46_transmitter.md R705 to R710, R713), and
from these that XMIT and POSTID complete. -/

namespace Sys2Proof.Machine

open Sys2Proof.Laws

/-! ## Ticks ahead of and behind a target (00_scope.md R18) -/

theorem reached_self (p : Params) (tick : Nat) : reached p tick tick = true := by
  rw [reached_iff, tickSub_eq_toNat, BitVec.sub_self]
  exact Nat.two_pow_pos _

/-- A target up to half a period ahead reads as in the future. -/
theorem not_reached_tickAdd (p : Params) (tick : Nat) {d : Nat} (hpos : 1 ≤ d) (hd : d ≤ 32768) :
    reached p tick (tickAdd p tick d) = false := by
  have hspan := tickSpan_eq p
  have hhalf := half_span_ge p
  have hround : tickAdd p (tickAdd p tick d) (tickSpan p - d) = tick % tickSpan p := by
    rw [tickAdd_tickAdd, Nat.add_sub_cancel' (by omega), tickAdd, Nat.add_mod_right]
  have hdist : tickSub p tick (tickAdd p tick d) = tickSpan p - d :=
    calc tickSub p tick (tickAdd p tick d) = tickSub p (tick % tickSpan p) (tickAdd p tick d) := by
          rw [tickSub, tickSub, Nat.mod_add_mod]
      _ = tickSpan p - d := by rw [← hround, tickSub_tickAdd_self _ _ (by omega)]
  rw [Bool.eq_false_iff, ne_eq, reached_iff, hdist]
  omega

/-- Back from a tick still ahead. -/
theorem tickSub_tickAdd_of_le (p : Params) (tick : Nat) {d e : Nat} (hle : e ≤ d) (he : e ≤ 32768) :
    tickSub p (tickAdd p tick d) e = tickAdd p tick (d - e) := by
  have hspan := tickSpan_eq p
  have hhalf := half_span_ge p
  have hsum : tick + d + (tickSpan p - e) = tick + (d - e) + tickSpan p := by omega
  rw [tickSub, tickAdd, Nat.mod_eq_of_lt (show e < tickSpan p by omega), Nat.mod_add_mod, hsum, Nat.add_mod_right,
    tickAdd]

/-! ## Runs -/

/-- The machine comes from s to t by steps. -/
def Reaches : State → State → Prop := Relation.ReflTransGen fun s t => step s = .next t

theorem core_run_succ (M : Host.Core) {s t : M.State} (hstep : M.step s = .next t) (n : Nat) :
    M.run (n + 1) s = M.run n t := by
  rw [Host.Core.run, hstep]

theorem Reaches.exists_run {s t : State} (h : Reaches s t) : ∃ n, run n s = .next t := by
  induction h using Relation.ReflTransGen.head_induction_on with
  | refl => exact ⟨0, rfl⟩
  | head hstep _ ih =>
    obtain ⟨n, hn⟩ := ih
    exact ⟨n + 1, (core_run_succ Sys2Proof.core hstep n).trans hn⟩

/-- A step of the command that executes is the machine's step under the eager schedule. -/
theorem step_of_xmitStep {s : State} (he : s.eager) {o : Out} (ho : xmitStep s = some o) : step s = o := by
  have hpos : s.pos ≠ .idle := fun hidle => by simp [xmitStep, hidle] at ho
  exact step_of_turn (.inr (.inl ⟨he, rfl⟩)) (by rw [seqStep, if_neg hpos, ho])

/-! ## What the steps of a transmission leave alone -/

/-- The encoder's state, FAULT, the configuration, the host's acts and the schedule are the same in both states. -/
structure Undisturbed (s t : State) : Prop where
  cfg : t.cfg = s.cfg := by rfl
  pkt : t.pkt = s.pkt := by rfl
  crc : t.crc = s.crc := by rfl
  csr : t.csr = s.csr := by rfl
  dprev : t.dprev = s.dprev := by rfl
  fault : t.fault = s.fault := by rfl
  outside : t.env.host = s.env.host ∧ t.env.moves = s.env.moves ∧ t.env.fallback = s.env.fallback := by
    exact ⟨rfl, rfl, rfl⟩

theorem Undisturbed.trans {s t u : State} (h : Undisturbed s t) (h' : Undisturbed t u) : Undisturbed s u where
  cfg := h'.cfg.trans h.cfg
  pkt := h'.pkt.trans h.pkt
  crc := h'.crc.trans h.crc
  csr := h'.csr.trans h.csr
  dprev := h'.dprev.trans h.dprev
  fault := h'.fault.trans h.fault
  outside := by
    obtain ⟨hhost, hmoves, hfallback⟩ := h.outside
    obtain ⟨hhost', hmoves', hfallback'⟩ := h'.outside
    exact ⟨hhost'.trans hhost, hmoves'.trans hmoves, hfallback'.trans hfallback⟩

theorem Undisturbed.eager {s t : State} (h : Undisturbed s t) (he : s.eager) : t.eager := by
  obtain ⟨hmoves, hfallback⟩ := he
  obtain ⟨-, hmoves', hfallback'⟩ := h.outside
  exact ⟨hmoves'.trans hmoves, hfallback'.trans hfallback⟩

/-- What every place of an armed transmission needs to go on under the eager schedule: SYM holds the packet, the saved
registers are those of the queries, and CUR holds a symbol from the first tone on (46_transmitter.md R705, R708). -/
structure State.Sending (s : State) : Prop where
  eager : s.eager
  saved : s.SavedFromQueries
  packet : 1 ≤ s.nsym ∧ s.nsym ≤ s.sym.length
  tone : 8 ≤ s.pos.rank → s.cur.isSome = true

/-- t comes later than s in one transmission. -/
structure Onward (s t : State) : Prop where
  reaches : Reaches s t
  undisturbed : Undisturbed s t
  nsym : t.nsym = s.nsym
  sending : t.Sending

section

variable {s t u : State}

theorem Onward.trans (h : Onward s t) (h' : Onward t u) : Onward s u where
  reaches := Relation.ReflTransGen.trans h.reaches h'.reaches
  undisturbed := h.undisturbed.trans h'.undisturbed
  nsym := h'.nsym.trans h.nsym
  sending := h'.sending

theorem State.Sending.refl (h : s.Sending) : Onward s s := ⟨.refl, {}, rfl, h⟩

/-- One step of the machine. -/
theorem State.Sending.onward (h : s.Sending) (hstep : step s = .next t) (hsame : Undisturbed s t)
    (htone : 8 ≤ t.pos.rank → t.cur.isSome = true) (hsym : t.sym = s.sym := by rfl)
    (hnsym : t.nsym = s.nsym := by rfl) : Onward s t where
  reaches := .single hstep
  undisturbed := hsame
  nsym := hnsym
  sending := {
    eager := hsame.eager h.eager
    saved := stepKeepsSavedValues s t h.saved hstep
    packet := by rw [hsym, hnsym]; exact h.packet
    tone := htone }

/-- One step of the sequencer. -/
theorem State.Sending.xmitStep_onward (h : s.Sending) (ht : xmitStep s = some (.next t)) (hsame : Undisturbed s t)
    (htone : 8 ≤ t.pos.rank → t.cur.isSome = true) (hsym : t.sym = s.sym := by rfl)
    (hnsym : t.nsym = s.nsym := by rfl) : Onward s t :=
  h.onward (step_of_xmitStep h.eager ht) hsame htone hsym hnsym

/-! ## Waits (46_transmitter.md R706, R707, R717) -/

/-- While a wait holds the sequencer a tick changes TICK only. -/
theorem State.Sending.tick {tb : Nat} (h : s.Sending) (hwaits : s.pos.waits = true) (htb : s.tb = some tb)
    (hheld : reached s.cfg s.tick (waitPoint s.cfg s.pos tb) = false) :
    Onward s { s with tick := tickAdd s.cfg s.tick 1 } := by
  obtain ⟨hmoves, hfallback⟩ := h.eager
  refine h.onward ?_ {} h.tone
  rw [step_eager hmoves hfallback, seqStep_eq_none_of_not_reached hwaits htb hheld, Option.getD_none,
    tickStep_of_not_lapses (by rw [waitLapses_of_waits hwaits htb, hheld]; rfl)]

/-- A wait for a target d ticks ahead ends d ticks later. -/
theorem State.Sending.wait {d tb : Nat} (h : s.Sending) (hwaits : s.pos.waits = true) (htb : s.tb = some tb)
    (hpos : 1 ≤ d) (hd : d ≤ 32768) (htarget : waitPoint s.cfg s.pos tb = tickAdd s.cfg s.tick d) :
    Onward s { s with tick := tickAdd s.cfg s.tick d } := by
  induction d, hpos using Nat.le_induction generalizing s with
  | base => exact h.tick hwaits htb (htarget ▸ not_reached_tickAdd _ _ le_rfl hd)
  | succ d _ ih =>
    have hfirst := h.tick hwaits htb (htarget ▸ not_reached_tickAdd _ _ (by omega) hd)
    have hsum : tickAdd s.cfg (tickAdd s.cfg s.tick 1) d = tickAdd s.cfg s.tick (d + 1) := by
      rw [tickAdd_tickAdd, Nat.add_comm]
    have hrest := ih hfirst.sending hwaits htb (by omega) (htarget.trans hsum.symm)
    rw [← hsum]
    exact hfirst.trans hrest

/-! ## The calls between two waits (46_transmitter.md R705, R709) -/

/-- t comes later than s at the same tick and symbol. -/
structure AtOnce (s t : State) : Prop extends Onward s t where
  tick : t.tick = s.tick := by rfl
  sidx : t.sidx = s.sidx := by rfl

theorem AtOnce.trans (h : AtOnce s t) (h' : AtOnce t u) : AtOnce s u where
  toOnward := h.toOnward.trans h'.toOnward
  tick := h'.tick.trans h.tick
  sidx := h'.sidx.trans h.sidx

/-- From s the sequence goes on to the place p at once. -/
def State.GoesTo (s : State) (p : Pos) : Prop := ∃ t, AtOnce s t ∧ t.pos = p

/-- A step that does not touch CUR, from the place p. -/
theorem State.Sending.step_goesTo {p next : Pos} (h : s.Sending) (hp : s.pos = p)
    (hrank : 8 ≤ next.rank → 8 ≤ p.rank) (ht : xmitStep s = some (.next t)) (hnext : t.pos = next)
    (hsame : Undisturbed s t := by exact {}) (hcur : t.cur = s.cur := by rfl) (hsym : t.sym = s.sym := by rfl)
    (hnsym : t.nsym = s.nsym := by rfl) (htick : t.tick = s.tick := by rfl) (hsidx : t.sidx = s.sidx := by rfl) :
    s.GoesTo next := by
  subst hp hnext
  exact ⟨t, ⟨h.xmitStep_onward ht hsame (fun hr => hcur ▸ h.tone (hrank hr)) hsym hnsym, htick,
    hsidx⟩, rfl⟩

/-- A port call without an answer. -/
theorem State.Sending.callStep_goesTo {p next : Pos} {a : Act} (h : s.Sending) (hp : s.pos = p)
    (hrank : 8 ≤ next.rank → 8 ≤ p.rank) (ht : xmitStep s = some (callStep a next s)) : s.GoesTo next :=
  h.step_goesTo hp hrank ht rfl

/-- FE.write's status is drawn and ignored. -/
theorem State.Sending.feWriteStep_goesTo {p next : Pos} {v : Half} (h : s.Sending) (hp : s.pos = p)
    (hrank : 8 ≤ next.rank → 8 ≤ p.rank) (ht : xmitStep s = some (feWriteStep v next s)) : s.GoesTo next :=
  h.step_goesTo hp hrank ht rfl { outside := draw_keeps _ _ _ s.env fun _ => ⟨rfl, rfl, rfl⟩ }

theorem State.Sending.feReadStep_goesTo (h : s.Sending) (hp : s.pos = .filterRead) :
    s.GoesTo (.filterOff (drawFeRead s.env).1.1 (drawFeRead s.env).1.2) :=
  have ht : xmitStep s = some (feReadStep s) := by rw [xmitStep, hp]
  h.step_goesTo hp (by simp [Pos.rank]) ht rfl { outside := draw_keeps _ _ _ s.env fun _ => ⟨rfl, rfl, rfl⟩ }

theorem State.Sending.filterOffStep_goesTo {ok : Bool} {v : Half} (h : s.Sending) (hp : s.pos = .filterOff ok v) :
    s.GoesTo .firstTone :=
  have ht : xmitStep s = some (feWriteStep s.cfg.filterOffValue .firstTone (saveFilter ok v s)) := by
    rw [xmitStep, hp]
  h.step_goesTo hp (by simp [Pos.rank]) ht rfl { outside := draw_keeps _ _ _ s.env fun _ => ⟨rfl, rfl, rfl⟩ }

theorem State.Sending.ampQueryStep_goesTo (h : s.Sending) (hp : s.pos = .ampQuery) : s.GoesTo .ampEnable :=
  have ht : xmitStep s = some (ampQueryStep s) := by rw [xmitStep, hp]
  h.step_goesTo hp (by decide) ht rfl { outside := draw_keeps _ _ _ s.env fun _ => ⟨rfl, rfl, rfl⟩ }

/-- SYM[0] holds a bit, which CUR takes. -/
theorem State.Sending.firstToneStep_goesTo (h : s.Sending) (hp : s.pos = .firstTone) : s.GoesTo .routeTone := by
  have hlen : 0 < s.sym.length := Nat.lt_of_lt_of_le h.packet.1 h.packet.2
  have htone : firstToneStep s =
      callStep (.toneSet (toneOf s.cfg s.sym[0])) .routeTone { s with cur := some s.sym[0] } := by
    rw [firstToneStep, List.getElem?_eq_getElem hlen, needValue_some]
  have ht : xmitStep s = some (firstToneStep s) := by rw [xmitStep, hp]
  rw [htone] at ht
  exact ⟨_, { toOnward := h.xmitStep_onward ht {} fun _ => rfl }, rfl⟩

theorem State.Sending.cssRestoreStep_goesTo (h : s.Sending) (hp : s.pos = .cssRestore) : s.GoesTo .filterRestore := by
  obtain ⟨c, hc⟩ := Option.isSome_iff_exists.1 (h.saved.css (by rw [hp]; decide)).1
  exact h.callStep_goesTo (a := .cssSet c) hp (by decide) (by rw [xmitStep, hp, cssRestoreStep, hc, needValue_some])

theorem State.Sending.filterRestoreStep_goesTo (h : s.Sending) (hp : s.pos = .filterRestore) :
    s.GoesTo .ampRestore := by
  obtain ⟨ok, v, -, hok, hv⟩ := h.saved.filter (by rw [hp]; decide)
  have ht : xmitStep s = some (feWriteStep (if ok then v else s.cfg.filterSafeDefault) .ampRestore s) := by
    rw [xmitStep, hp, filterRestoreStep, hok, needValue_some]
    cases ok with
    | true => rw [if_pos rfl, hv rfl, needValue_some, if_pos rfl]
    | false => rfl
  exact h.feWriteStep_goesTo hp (by decide) ht

/-- RS6 follows at once when the amplifier was on. -/
theorem State.Sending.ampRestoreStep_goesTo (h : s.Sending) (hp : s.pos = .ampRestore) :
    s.GoesTo .unmute ∨ s.GoesTo .finish := by
  obtain ⟨on, hon⟩ := Option.isSome_iff_exists.1 (h.saved.amp (by rw [hp]; decide)).1
  have ht : xmitStep s = some (if on then unmuteStep s else callStep (.ampDisable s.cfg.ampMode) .unmute s) := by
    rw [xmitStep, hp, ampRestoreStep, hon, needValue_some]
  cases on with
  | true => exact .inr (h.callStep_goesTo hp (by decide) ht)
  | false => exact .inl (h.callStep_goesTo hp (by decide) ht)

/-- A place that makes a port call goes on to a later one: at the latest to the read of TICK or to the completion,
which end the sequence of calls. -/
theorem State.Sending.goesOn (h : s.Sending)
    (hcalls : 4 ≤ s.pos.rank ∧ s.pos.rank < 12 ∨ 16 ≤ s.pos.rank ∧ s.pos.rank < 21) :
    ∃ next, s.GoesTo next ∧ s.pos.rank < next.rank ∧ (s.pos.rank < 12 → next.rank ≤ 12) := by
  cases hp : s.pos <;> simp only [hp, Pos.rank] at hcalls
  case cssOff => exact ⟨.filterRead, h.callStep_goesTo hp (by decide) (by rw [xmitStep, hp]), by decide⟩
  case filterRead => exact ⟨_, h.feReadStep_goesTo hp, by simp [Pos.rank]⟩
  case filterOff => exact ⟨_, h.filterOffStep_goesTo hp, by simp [Pos.rank]⟩
  case firstTone => exact ⟨_, h.firstToneStep_goesTo hp, by decide⟩
  case routeTone => exact ⟨.ampQuery, h.callStep_goesTo hp (by decide) (by rw [xmitStep, hp]), by decide⟩
  case ampQuery => exact ⟨_, h.ampQueryStep_goesTo hp, by decide⟩
  case ampEnable => exact ⟨.mute, h.callStep_goesTo hp (by decide) (by rw [xmitStep, hp]), by decide⟩
  case mute => exact ⟨.settle, h.callStep_goesTo hp (by decide) (by rw [xmitStep, hp]), by decide⟩
  case routeMic => exact ⟨.cssRestore, h.callStep_goesTo hp (by decide) (by rw [xmitStep, hp]), by decide⟩
  case cssRestore => exact ⟨_, h.cssRestoreStep_goesTo hp, by decide⟩
  case filterRestore => exact ⟨_, h.filterRestoreStep_goesTo hp, by decide⟩
  case ampRestore =>
    rcases h.ampRestoreStep_goesTo hp with hgo | hgo
    · exact ⟨_, hgo, by decide⟩
    · exact ⟨_, hgo, by decide⟩
  case unmute => exact ⟨.finish, h.callStep_goesTo hp (by decide) (by rw [xmitStep, hp, unmuteStep]), by decide⟩
  all_goals omega

/-- The calls of ARMED lead to the read of TICK (rank 12), those of RESTORING to the completion (rank 21). -/
theorem State.Sending.calls {k : Nat} (h : s.Sending)
    (hk : 4 ≤ s.pos.rank ∧ s.pos.rank ≤ k ∧ k = 12 ∨ 16 ≤ s.pos.rank ∧ s.pos.rank ≤ k ∧ k = 21) :
    ∃ t, AtOnce s t ∧ t.pos.rank = k := by
  induction hd : k - s.pos.rank using Nat.strong_induction_on generalizing s with
  | _ d ih =>
    rcases Nat.eq_or_lt_of_le (show s.pos.rank ≤ k by omega) with heq | hlt
    · exact ⟨s, { toOnward := h.refl }, heq⟩
    · obtain ⟨_, ⟨t, hst, rfl⟩, hup, hbound⟩ := h.goesOn (by omega)
      have hmax : t.pos.rank ≤ 21 := by cases t.pos <;> simp [Pos.rank]
      obtain ⟨u, htu, hu⟩ := ih _ (by omega) hst.sending (by omega) rfl
      exact ⟨u, hst.trans htu, hu⟩

theorem Pos.eq_settle_of_rank {p : Pos} (h : p.rank = 12) : p = .settle := by
  cases p <;> simp [Pos.rank] at h ⊢

theorem Pos.eq_finish_of_rank {p : Pos} (h : p.rank = 21) : p = .finish := by
  cases p <;> simp [Pos.rank] at h ⊢

/-! ## Symbols (46_transmitter.md R706 to R708, R713) -/

theorem durTicks_bounds : ∀ i : Fin 3, 8 ≤ durTicks i ∧ durTicks i ≤ 9 := by decide

/-- R713's closed form grows by the next symbol's duration. -/
theorem symbolEnd_add_durTicks {n : Nat} {i : Fin 3} (hi : i.val = (n + 1) % 3) :
    symbolEnd n + durTicks i = symbolEnd (n + 1) := by
  rw [durTicks, hi, symbolEnd, symbolEnd]
  have hnext : (n + 1) % 3 = 0 ∧ (n + 1 + 1) % 3 = 1 ∧ (n + 1 + 1) / 3 = (n + 1) / 3 ∨
      (n + 1) % 3 = 1 ∧ (n + 1 + 1) % 3 = 2 ∧ (n + 1 + 1) / 3 = (n + 1) / 3 ∨
      (n + 1) % 3 = 2 ∧ (n + 1 + 1) % 3 = 0 ∧ (n + 1 + 1) / 3 = (n + 1) / 3 + 1 := by omega
  rcases hnext with ⟨hmod, hmod', hdiv⟩ | ⟨hmod, hmod', hdiv⟩ | ⟨hmod, hmod', hdiv⟩
  · rw [hmod, hmod', hdiv]; rfl
  · rw [hmod, hmod', hdiv]; rfl
  · rw [hmod, hmod', hdiv]; rfl

/-- Symbol n of a transmission whose settle target is `start`, at one of its two waits, with no stall on record. -/
structure AtSymbol (start n : Nat) (p : Pos) (s : State) : Prop where
  sending : s.Sending
  pos : s.pos = p
  sidx : s.sidx = n
  lt : n < s.nsym
  pidx : s.pidx.val = n % 3
  ends : s.tb = some (tickAdd s.cfg start (symbolEnd n))
  not_stalled : s.stalled = false

/-- Symbol n begins now. -/
structure Begun (start n : Nat) (s : State) : Prop extends AtSymbol start n .writeAhead s where
  end_ahead : tickAdd s.cfg start (symbolEnd n) = tickAdd s.cfg s.tick (durTicks s.pidx)

/-- Symbol n ends now. -/
structure Ended (start n : Nat) (s : State) : Prop extends AtSymbol start n .boundary s where
  tick : s.tick = tickAdd s.cfg start (symbolEnd n)

/-- The read of TICK. -/
theorem State.Sending.settleStep_onward (h : s.Sending) (hp : s.pos = .settle) :
    Onward s { s with tb := some (tickAdd s.cfg s.tick s.cfg.leadTicks), pos := .firstSymbol, stalled := false } :=
  have ht : xmitStep s = some (settleStep s) := by rw [xmitStep, hp]
  h.xmitStep_onward ht {} fun _ => h.tone (by rw [hp]; decide)

/-- A poll that finds the settle target reached begins symbol 0. -/
theorem State.Sending.firstSymbolStep_onward (h : s.Sending) (hp : s.pos = .firstSymbol) (htb : s.tb = some s.tick) :
    Onward s (beginSymbol s.tick (beginSymbols s)) := by
  have ht : xmitStep s = some (.next (beginSymbol s.tick (beginSymbols s))) := by
    rw [xmitStep, hp, firstSymbolStep, pollWait_eq htb, hp, waitPoint_of_ne (by decide), if_pos (reached_self _ _)]
  exact h.xmitStep_onward ht {} fun _ => h.tone (by rw [hp]; decide)

/-- From the read of TICK to symbol 0, LEAD_TICKS later. -/
theorem State.Sending.toFirstSymbol (h : s.Sending) (hp : s.pos = .settle) :
    ∃ t, Onward s t ∧ Begun (s.tick + s.cfg.leadTicks) 0 t := by
  have hlead := s.cfg.lead_pos
  have hlead' := s.cfg.lead_le
  have hsettle := h.settleStep_onward hp
  have hwait := hsettle.sending.wait (d := s.cfg.leadTicks) rfl rfl hlead (by omega) (waitPoint_of_ne (by simp) _ _)
  have hbegin := hwait.sending.firstSymbolStep_onward rfl rfl
  have hend : tickAdd s.cfg (tickAdd s.cfg s.tick s.cfg.leadTicks) (durTicks 0) =
      tickAdd s.cfg (s.tick + s.cfg.leadTicks) (symbolEnd 0) := by
    simp [tickAdd, symbolEnd, durTicks, DUR]
  exact ⟨_, hsettle.trans (hwait.trans hbegin), {
    sending := hbegin.sending
    pos := rfl
    sidx := rfl
    lt := h.packet.1
    pidx := rfl
    ends := congrArg some hend
    not_stalled := rfl
    end_ahead := hend.symm }⟩

theorem markLate_of_on_time {target : Nat} (hstalled : s.stalled = false)
    (hahead : reached s.cfg s.tick target = false) : markLate target s = s := by
  rw [markLate, hstalled, hahead]
  rfl

/-- The write-ahead step on time sets no fault bit, and leaves a symbol in CUR. -/
theorem State.Sending.symbolStep_eq {target : Nat} (h : s.Sending) (hp : s.pos = .writeAhead)
    (hstalled : s.stalled = false) (hahead : reached s.cfg s.tick target = false) :
    ∃ cur tr, symbolStep target s =
      .next { s with pos := .boundary, stalled := false, cur := some cur, trace := tr } := by
  obtain ⟨c, hc⟩ := Option.isSome_iff_exists.1 (h.tone (by rw [hp]; decide))
  rw [symbolStep, markLate_of_on_time hstalled hahead]
  dsimp only
  split
  · next hnext =>
    have hlen : s.sidx + 1 < s.sym.length := Nat.lt_of_lt_of_le hnext h.packet.2
    rw [List.getElem?_eq_getElem hlen, needValue_some, hc, needValue_some]
    split
    · exact ⟨c, s.trace, by rw [← hc]⟩
    · exact ⟨_, _, rfl⟩
  · exact ⟨c, s.trace, by rw [← hc]⟩

/-- A poll that finds the write-ahead point reached, on time. -/
theorem State.Sending.writeAheadStep_onward {tb : Nat} (h : s.Sending) (hp : s.pos = .writeAhead)
    (htb : s.tb = some tb) (hnow : s.tick = tickSub s.cfg tb s.cfg.leadTicks) (hstalled : s.stalled = false)
    (hahead : reached s.cfg s.tick tb = false) :
    ∃ t, Onward s t ∧ ∃ cur tr,
      t = { s with pos := .boundary, stalled := false, cur := some cur, trace := tr } := by
  obtain ⟨cur, tr, heq⟩ := h.symbolStep_eq hp hstalled hahead
  have ht : xmitStep s = some (symbolStep tb s) := by
    rw [xmitStep, hp, writeAheadStep, pollWait_eq htb, hp, waitPoint_writeAhead, ← hnow, if_pos (reached_self _ _)]
  rw [heq] at ht
  exact ⟨_, h.xmitStep_onward ht {} fun _ => rfl, cur, tr, rfl⟩

/-- From a symbol's begin through its write-ahead step, LEAD_TICKS before its end, to its end. -/
theorem Begun.toEnd {start n : Nat} (h : Begun start n s) : ∃ t, Onward s t ∧ Ended start n t := by
  obtain ⟨⟨hsending, hp, hsidx, hlt, hpidx, hends, hstalled⟩, hahead⟩ := h
  have hlead := s.cfg.lead_pos
  have hlead' := s.cfg.lead_le
  obtain ⟨hdur, hdur'⟩ := durTicks_bounds s.pidx
  have hsum : tickAdd s.cfg (tickAdd s.cfg s.tick (durTicks s.pidx - s.cfg.leadTicks)) s.cfg.leadTicks =
      tickAdd s.cfg start (symbolEnd n) := by
    rw [tickAdd_tickAdd, Nat.sub_add_cancel (by omega), hahead]
  have hpoint : waitPoint s.cfg s.pos (tickAdd s.cfg start (symbolEnd n)) =
      tickAdd s.cfg s.tick (durTicks s.pidx - s.cfg.leadTicks) := by
    rw [hp, waitPoint_writeAhead, hahead, tickSub_tickAdd_of_le _ _ (by omega) (by omega)]
  have hwait := hsending.wait (by rw [hp]; rfl) hends (by omega) (by omega) hpoint
  have hswitch := hwait.sending.writeAheadStep_onward hp hends (by rw [← hpoint, hp]; rfl) hstalled
    (hsum ▸ not_reached_tickAdd _ _ hlead (by omega))
  obtain ⟨t, hst, ⟨cur, tr, rfl⟩⟩ := hswitch
  have hwait' := hst.sending.wait (d := s.cfg.leadTicks) rfl hends hlead (by omega)
    ((waitPoint_of_ne (by simp) _ _).trans hsum.symm)
  exact ⟨_, hwait.trans (hst.trans hwait'), {
    sending := hwait'.sending
    pos := rfl
    sidx := hsidx
    lt := hlt
    pidx := hpidx
    ends := hends
    not_stalled := rfl
    tick := hsum }⟩

/-- What a poll at a symbol's end does. -/
theorem Ended.xmitStep_eq {start n : Nat} (h : Ended start n s) :
    xmitStep s = some (if n + 1 = s.nsym then toneOffStep (advanceSymbol s)
      else .next (beginSymbol s.tick (advanceSymbol s))) := by
  have hreached : reached s.cfg s.tick (waitPoint s.cfg s.pos (tickAdd s.cfg start (symbolEnd n))) = true := by
    rw [h.pos, waitPoint_of_ne (by decide), ← h.tick, reached_self]
  rw [xmitStep, h.pos, boundaryStep, pollWait_eq h.ends, if_pos hreached, ← h.tick, ← h.sidx]
  rfl

/-- The next symbol begins. -/
theorem Ended.next {start n : Nat} (h : Ended start n s) (hnext : n + 1 < s.nsym) :
    ∃ t, Onward s t ∧ Begun start (n + 1) t := by
  have hstep := h.xmitStep_eq
  rw [if_neg hnext.ne] at hstep
  have honward : Onward s (beginSymbol s.tick (advanceSymbol s)) :=
    h.sending.xmitStep_onward hstep {} fun _ => h.sending.tone (by rw [h.pos]; decide)
  have hpidx : (s.pidx + 1).val = (n + 1) % 3 := by
    rw [Fin.val_add, h.pidx]
    exact Nat.mod_add_mod ..
  have hend : tickAdd s.cfg start (symbolEnd (n + 1)) = tickAdd s.cfg s.tick (durTicks (s.pidx + 1)) := by
    rw [h.tick, tickAdd_tickAdd, symbolEnd_add_durTicks hpidx]
  exact ⟨_, honward, {
    sending := honward.sending
    pos := rfl
    sidx := congrArg (· + 1) h.sidx
    lt := hnext
    pidx := hpidx
    ends := congrArg some hend.symm
    not_stalled := h.not_stalled
    end_ahead := hend }⟩

/-- After the last symbol the restore begins (RS1). -/
theorem Ended.last {start n : Nat} (h : Ended start n s) (hlast : n + 1 = s.nsym) :
    ∃ t, Onward s t ∧ t.pos = .routeMic ∧ t.sidx = s.nsym ∧ t.tick = s.tick := by
  have hstep := h.xmitStep_eq
  rw [if_pos hlast] at hstep
  exact ⟨_, h.sending.xmitStep_onward hstep {} fun _ => h.sending.tone (by rw [h.pos]; decide),
    rfl, (congrArg (· + 1) h.sidx).trans hlast, rfl⟩

/-- Symbol follows symbol to the end of the last. -/
theorem Begun.toLast {start n : Nat} (h : Begun start n s) : ∃ t, Onward s t ∧ Ended start (s.nsym - 1) t := by
  induction hd : s.nsym - n using Nat.strong_induction_on generalizing s n with
  | _ d ih =>
    have hlt := h.lt
    obtain ⟨t, hst, hended⟩ := h.toEnd
    have hnsym := hst.nsym
    rcases Nat.eq_or_lt_of_le (show n + 1 ≤ s.nsym from hlt) with hlast | hnext
    · obtain rfl : n = s.nsym - 1 := by omega
      exact ⟨t, hst, hended⟩
    · obtain ⟨u, htu, hbegun⟩ := hended.next (by omega)
      have hnsym' := htu.nsym
      obtain ⟨v, huv, hv⟩ := ih _ (by omega) hbegun rfl
      exact ⟨v, hst.trans (htu.trans huv), by rwa [hnsym', hnsym] at hv⟩

/-! ## Armed transmissions run to completion (46_transmitter.md R709, R710, R713) -/

/-- t is what a transmission of L symbols, completed on schedule, leaves of s: its settle target is LEAD_TICKS after s's
TICK. -/
structure Transmitted (L : Nat) (s t : State) : Prop where
  undisturbed : Undisturbed s t
  phase : t.phase = .idle
  pos : t.pos = .idle
  res : t.res = some 1
  nsym : t.nsym = L
  sidx : t.sidx = L
  tick : t.tick = tickAdd s.cfg (s.tick + s.cfg.leadTicks) (symbolEnd (L - 1))

theorem State.Sending.transmits (h : s.Sending) (hlo : 4 ≤ s.pos.rank) (hhi : s.pos.rank ≤ 12) :
    ∃ t, Reaches s t ∧ Transmitted s.nsym s t := by
  obtain ⟨a, hsa, ha⟩ := h.calls (k := 12) (.inl ⟨hlo, hhi, rfl⟩)
  obtain ⟨b, hab, hbegun⟩ := hsa.sending.toFirstSymbol (Pos.eq_settle_of_rank ha)
  obtain ⟨c, hbc, hended⟩ := hbegun.toLast
  have hsc : Onward s c := hsa.toOnward.trans (hab.trans hbc)
  have hnsym : b.nsym = s.nsym := hab.nsym.trans hsa.nsym
  have hend : c.tick = tickAdd s.cfg (s.tick + s.cfg.leadTicks) (symbolEnd (s.nsym - 1)) := by
    rw [hended.tick, hsc.undisturbed.cfg, hsa.undisturbed.cfg, hsa.tick, hnsym]
  have hlast : b.nsym - 1 + 1 = c.nsym := by
    rw [hbc.nsym, Nat.sub_add_cancel hab.sending.packet.1]
  obtain ⟨d, hcd, hd, hsidx, htick⟩ := hended.last hlast
  obtain ⟨e, hde, he⟩ := hcd.sending.calls (k := 21) (.inr (by rw [hd]; decide))
  have hstep : xmitStep e = some (completeXmit 1 e) := by rw [xmitStep, Pos.eq_finish_of_rank he]
  have hfinish := hde.sending.xmitStep_onward hstep {} (by simp [Pos.rank])
  have hall := hsc.trans (hcd.trans (hde.toOnward.trans hfinish))
  exact ⟨_, hall.reaches, {
    undisturbed := hall.undisturbed
    phase := rfl
    pos := rfl
    res := rfl
    nsym := hall.nsym
    sidx := hde.sidx.trans (hsidx.trans hsc.nsym)
    tick := hde.tick.trans (htick.trans hend) }⟩

/-! ## XMIT from its first step (46_transmitter.md R701 to R704) -/

/-- PRECHECK's two queries will be answered so that the transmission goes on. -/
structure State.MayTransmit (s : State) : Prop where
  mode : (drawMode s.env).1 = .analog
  txen : (drawTxen (drawMode s.env).2).1 = true

theorem State.MayTransmit.of_scripted {ms : List RadioMode} {es : List Bool} (hmode : s.env.modeAns = .analog :: ms)
    (htxen : s.env.txenAns = true :: es) : s.MayTransmit where
  mode := by simp [drawMode, draw, hmode]
  txen := by simp [drawMode, drawTxen, draw, hmode, htxen]

/-- MODE.query answers ANALOG. -/
theorem State.MayTransmit.startXmit_eq (h : s.MayTransmit) (len : Byte) :
    ∃ t, startXmit len s = .next t ∧ Undisturbed s t ∧ t.tick = s.tick ∧ t.pos = .txenQuery len ∧
      (drawTxen t.env).1 = true :=
  ⟨logAct (.modeQuery .analog) { s with phase := .precheck, pos := .txenQuery len, env := (drawMode s.env).2 },
    by simp only [startXmit, h.mode, if_true], { outside := draw_keeps _ _ _ s.env fun _ => ⟨rfl, rfl, rfl⟩ },
    rfl, rfl, h.txen⟩

/-- TXEN.query answers 1. -/
theorem txenStep_of_enabled (htxen : (drawTxen s.env).1 = true) (len : Byte) :
    ∃ t, txenStep len s = .next t ∧ Undisturbed s t ∧ t.tick = s.tick ∧ t.pos = .cssGet len :=
  ⟨logAct (.txenQuery true) { s with pos := .cssGet len, env := (drawTxen s.env).2 },
    by simp only [txenStep, htxen, if_true], { outside := draw_keeps _ _ _ s.env fun _ => ⟨rfl, rfl, rfl⟩ },
    rfl, rfl⟩

/-- The packet checks pass, since every packet's bits fit in SYM (R11), and the bits go to SYM. -/
theorem packetStep_of_written {len : Byte} (hpos : 1 ≤ len.toNat) (hle : len.toNat ≤ 26)
    (hwritten : written s.pkt 0 len.toNat) :
    ∃ t, packetStep len s = .next t ∧ Undisturbed s t ∧ t.tick = s.tick ∧ t.pos = .cssOff ∧
      t.nsym = 8 * len.toNat ∧ t.nsym ≤ t.sym.length := by
  obtain ⟨bs, hbs⟩ := readBytes_isSome (i := 0) (n := len.toNat) fun j hlo hhi => hwritten j hlo (by omega)
  have hcap : 208 ≤ s.cfg.symCap := s.cfg.symCap_ge
  have hfits : ¬ (len.toNat > PACKET_LEN ∨ 8 * len.toNat > s.cfg.symCap) := by
    rw [show PACKET_LEN = 26 from rfl]
    omega
  have hpacket : packetStep len s =
      cssGetStep { s with sym := writeSym (bitstream bs) s.sym, nsym := 8 * len.toNat } := by
    simp only [packetStep, zextA, if_neg (show ¬ len.toNat = 0 by omega), if_neg hfits, hbs]
  have hlen : 8 * len.toNat ≤ (writeSym (bitstream bs) s.sym).length := by
    rw [writeSym_length, bitstream_length, (readBytes_eq_some.1 hbs).1]
    exact Nat.le_max_left ..
  exact ⟨_, hpacket, { outside := draw_keeps _ _ _ s.env fun _ => ⟨rfl, rfl, rfl⟩ }, rfl, rfl, rfl, hlen⟩

/-- The two queries and the checks of PRECHECK, and XMIT's run to completion from there. -/
theorem startXmit_transmits {len : Byte} (he : s.eager) (hmay : s.MayTransmit) (hpos : 1 ≤ len.toNat)
    (hle : len.toNat ≤ 26) (hwritten : written s.pkt 0 len.toNat) :
    ∃ t u, startXmit len s = .next t ∧ Reaches t u ∧ Transmitted (8 * len.toNat) s u := by
  obtain ⟨a, ha, hsa, hticka, hposa, htxen⟩ := hmay.startXmit_eq len
  obtain ⟨b, hb, hab, htickb, hposb⟩ := txenStep_of_enabled htxen len
  have hsb := hsa.trans hab
  obtain ⟨c, hc, hbc, htickc, hposc, hnsym, hsym⟩ := packetStep_of_written hpos hle (hsb.pkt ▸ hwritten)
  have hsc := hsb.trans hbc
  have hstepb : step a = .next b := step_of_xmitStep (hsa.eager he) (by rw [← hb, xmitStep, hposa])
  have hstepc : step b = .next c := step_of_xmitStep (hsb.eager he) (by rw [← hc, xmitStep, hposb])
  have hsaved : b.SavedFromQueries := .of_unarmed (by simp [hposb, Pos.rank])
  have hsending : c.Sending := {
    eager := hsc.eager he
    saved := stepKeepsSavedValues b c hsaved hstepc
    packet := ⟨by omega, hsym⟩
    tone := by simp [hposc, Pos.rank] }
  obtain ⟨d, hcd, hd⟩ := hsending.transmits (by rw [hposc]; decide) (by rw [hposc]; decide)
  refine ⟨a, d, ha, .head hstepb (.head hstepc hcd), { hd with
    undisturbed := hsc.trans hd.undisturbed
    nsym := hd.nsym.trans hnsym
    sidx := hd.sidx.trans hnsym
    tick := ?_ }⟩
  rw [hd.tick, hsc.cfg, htickc, htickb, hticka, hnsym]

/-! ## POSTID (46_transmitter.md R712) -/

theorem execPostid_of_some {unit : Half} (ht : encodeStages s.cfg.pttidOp s.cfg.pttidArg unit s = some t) :
    exec (.postid unit) s = startXmit 26 { t with res := some encodeResult } := by
  rw [exec, execPostid, ht]
  rfl

end

/-- Settles O60: POSTID's encode writes the whole packet and leaves the outside and TICK alone, so the transmission of
its 208 bits goes through. -/
theorem postidCompletesOnSchedule : Obligations.PostidCompletesOnSchedule := by
  intro unit s ms es he hmode htxen
  obtain ⟨p, hp⟩ := encodeStages_isSome s.cfg.pttidOp s.cfg.pttidArg unit s
  have hencoded := encodeStages_encoded hp
  obtain ⟨hcfg, henv, hfault, htick⟩ :
      p.cfg = s.cfg ∧ p.env = s.env ∧ p.fault = s.fault ∧ p.tick = s.tick := by
    rw [hencoded.frame]
    exact ⟨rfl, rfl, rfl, rfl⟩
  obtain ⟨t, u, ht, htu, hu⟩ := startXmit_transmits (s := { p with res := some encodeResult }) (len := 26)
    (by rwa [State.eager, henv]) (.of_scripted (henv ▸ hmode) (henv ▸ htxen)) (by decide) (by decide)
    hencoded.packet_written
  obtain ⟨n, hn⟩ := htu.exists_run
  have hpkt : u.pkt = p.pkt := hu.undisturbed.pkt
  refine ⟨t, n, u, (execPostid_of_some hp).trans ht, hn, hu.phase, hu.pos, hu.res, hu.undisturbed.fault.trans hfault,
    hpkt ▸ hencoded.packet_written, hpkt ▸ hencoded.bits, ?_⟩
  rw [hu.tick, hcfg, htick]
  rfl

end Sys2Proof.Machine
end

section
/-! SUPPORT. XMIT and POSTID from their first step to the settle target, place by place (46_transmitter.md R701 to
R706, R712): the step each place makes on the sequencer's turn, and from these the eager runs. -/

namespace Sys2Proof.Machine

open Sys2Proof.Laws

/-! ## The sequencer's turn inside a transmission

In the eager runs below a state stands as one record of its fields: `dsimp only` flattens it after each step, or the
check would grow with every step. A hypothesis about s is used of such a record by `by exact`, which takes the record
from the goal. -/

theorem State.eager.turn {s : State} (h : s.eager) : s.sequencerTurn s := .inr (.inl ⟨h, rfl⟩)

/-- On the sequencer's turn, under any schedule, a transmission makes the step of its place. -/
theorem step_at_place {s s0 : State} {p : Pos} (hturn : s.sequencerTurn s0) (hp : s.pos = p) {o : Out}
    (ho : xmitStep { s0 with pos := p } = some o) : step s = o := by
  obtain ⟨e, rfl, -⟩ := sequencerTurn_env hturn
  subst hp
  have hbusy : s.pos ≠ .idle := fun hidle => by simp [xmitStep, hidle] at ho
  exact step_of_turn hturn (by rw [seqStep, if_neg hbusy, ← ho])

theorem run_succ {s t : State} (hstep : step s = .next t) (n : Nat) : run (n + 1) s = run n t :=
  core_run_succ Sys2Proof.core hstep n

/-- Under the eager schedule a transmission makes the step of its place. -/
theorem step_eager_at_place {s : State} {p : Pos} (he : s.eager) (hp : s.pos = p) {o : Out}
    (ho : xmitStep { s with pos := p } = some o) : step s = o :=
  step_at_place he.turn hp ho

/-- An eager run inside a transmission begins with the step of its place. -/
theorem run_at_place {s t : State} {p : Pos} {n : Nat} {o : Out} (he : s.eager) (hp : s.pos = p)
    (ho : xmitStep { s with pos := p } = some (.next t)) (hrun : run n t = o) : run (n + 1) s = o :=
  (run_succ (step_eager_at_place he hp ho) n).trans hrun

/-- A run of m + n steps is one of m, then one of n. -/
theorem core_run_add (M : Host.Core) {s t : M.State} {m : Nat} (hfirst : M.run m s = .next t) (n : Nat) :
    M.run (m + n) s = M.run n t := by
  induction m generalizing s with
  | zero =>
    obtain rfl := Host.Outcome.next.inj hfirst
    rw [Nat.zero_add]
  | succ m ih =>
    rw [Nat.succ_add]
    simp only [Host.Core.run] at hfirst ⊢
    split at hfirst
    · next u hu => exact ih hfirst
    · cases hfirst
    · cases hfirst

theorem run_add {s t : State} {m : Nat} (hfirst : run m s = .next t) (n : Nat) : run (m + n) s = run n t :=
  core_run_add Sys2Proof.core hfirst n

/-! ## Registers that hold a value (10_state.md R160) -/

theorem needValue_of_eq {α : Type} {o : Option α} {a : α} (h : o = some a) (s : State) (k : α → Out) :
    needValue o s k = k a := by
  rw [h, needValue_some]

/-! ## Scripted answers (00_scope.md R19) -/

section scripted

variable {s : State}

theorem startXmit_of_cons {m : RadioMode} {ms : List RadioMode} (h : s.env.modeAns = m :: ms) (len : Byte) :
    startXmit len s = .next { s with
      phase := .precheck
      pos := if m = .analog then .txenQuery len else .fail
      trace := ⟨s.tick, .modeQuery m⟩ :: s.trace
      env := { s.env with modeAns := ms } } := by
  rw [startXmit, drawMode, h, draw, logAct]

theorem txenStep_of_cons {b : Bool} {bs : List Bool} (h : s.env.txenAns = b :: bs) (len : Byte) :
    txenStep len s = .next { s with
      pos := if b then .cssGet len else .fail
      trace := ⟨s.tick, .txenQuery b⟩ :: s.trace
      env := { s.env with txenAns := bs } } := by
  rw [txenStep, drawTxen, h, draw, logAct]

theorem cssGetStep_of_cons {c : CssValue} {cs : List CssValue} (h : s.env.cssAns = c :: cs) :
    cssGetStep s = .next { s with
      phase := .armed
      savCss := some c
      pos := .cssOff
      trace := ⟨s.tick, .cssGet c⟩ :: s.trace
      env := { s.env with cssAns := cs } } := by
  rw [cssGetStep, drawCss, h, draw, logAct]

theorem feReadStep_of_cons {ok : Bool} {v : Half} {fs : List (Bool × Half)} (h : s.env.feReadAns = (ok, v) :: fs) :
    feReadStep s = .next { s with
      pos := .filterOff ok v
      trace := ⟨s.tick, .feRead s.cfg.filterRegIndex ok v⟩ :: s.trace
      env := { s.env with feReadAns := fs } } := by
  rw [feReadStep, drawFeRead, h, draw, logAct]

theorem feWriteStep_of_cons {w : Bool} {ws : List Bool} (h : s.env.feWriteAns = w :: ws) (v : Half) (next : Pos) :
    feWriteStep v next s = .next { s with
      pos := next
      trace := ⟨s.tick, .feWrite s.cfg.filterRegIndex v w⟩ :: s.trace
      env := { s.env with feWriteAns := ws } } := by
  rw [feWriteStep, drawFeWrite, h, draw, logAct]

theorem ampQueryStep_of_cons {on : Bool} {as : List Bool} (h : s.env.ampAns = on :: as) :
    ampQueryStep s = .next { s with
      savAmpOn := some on
      pos := .ampEnable
      trace := ⟨s.tick, .ampQuery s.cfg.ampMode on⟩ :: s.trace
      env := { s.env with ampAns := as } } := by
  rw [ampQueryStep, drawAmp, h, draw, logAct]

end scripted

/-! ## The first step (46_transmitter.md R701, R712) -/

/-- Settles O28: MODE.query's answer, scripted or free, picks the place that comes next. -/
theorem xmitQueriesModeFirst : Obligations.XmitQueriesModeFirst := by
  refine fun len s => ⟨fun m ms hmode => ?_, fun hmode => ?_⟩
  · exact startXmit_of_cons hmode len
  · rw [exec, execXmit, startXmit, drawMode, hmode, draw]
    rfl

/-- Settles O29: both commands run the same stages; ENCODE also logs its completion, which the statement takes off the
trace again. -/
theorem postidEncodesThenTransmits : Obligations.PostidEncodesThenTransmits := by
  intro unit s
  obtain ⟨p, hp⟩ := encodeStages_isSome s.cfg.pttidOp s.cfg.pttidArg unit s
  have htrace : p.trace = s.trace := by rw [encodeStages_frame hp]
  have hencode : exec (.encode s.cfg.pttidOp s.cfg.pttidArg unit false) s = completeWith encodeResult p := by
    rw [exec, execEncode, hp]
    rfl
  refine ⟨_, _, hencode.trans (completeWith_eq _ _), rfl, rfl, ?_⟩
  rw [execPostid_of_some hp, ← htrace]
  rfl

/-! ## PRECHECK (46_transmitter.md R701 to R704) -/

section packet

variable {s : State} {len : Byte}

theorem packetStep_of_bad_length (hlen : len.toNat = 0 ∨ 26 < len.toNat) : packetStep len s = completeXmit 0 s := by
  rcases hlen with hzero | hlong
  · simp only [packetStep, zextA, hzero, if_true]
  · have hfar : len.toNat > PACKET_LEN := hlong
    simp only [packetStep, zextA, hfar, true_or, if_true, ite_self]

section goodLength

variable (hpos : 1 ≤ len.toNat) (hle : len.toNat ≤ 26)

include hpos hle

/-- A length of 1 to 26 passes both checks, since every packet's bits fit in SYM (R11). -/
theorem length_passes (p : Params) :
    ¬ len.toNat = 0 ∧ ¬ (len.toNat > PACKET_LEN ∨ 8 * len.toNat > p.symCap) := by
  have hcap : 208 ≤ p.symCap := p.symCap_ge
  rw [show PACKET_LEN = 26 from rfl]
  omega

theorem packetStep_of_unwritten (hunwritten : ¬ written s.pkt 0 len.toNat) : packetStep len s = abortXmit s := by
  obtain ⟨hzero, hlong⟩ := length_passes hpos hle s.cfg
  have hnone : readBytes s.pkt 0 len.toNat = none := readBytes_eq_none_of_not_written (by rwa [Nat.zero_add])
  simp only [packetStep, zextA, hzero, hlong, if_false, hnone]

theorem packetStep_of_read {bs : List Byte} (hbs : readBytes s.pkt 0 len.toNat = some bs) :
    packetStep len s = cssGetStep { s with sym := writeSym (bitstream bs) s.sym, nsym := 8 * len.toNat } := by
  obtain ⟨hzero, hlong⟩ := length_passes hpos hle s.cfg
  simp only [packetStep, zextA, hzero, hlong, if_false, hbs]

end goodLength

theorem readBytes_of_written {m : Memory} {n : Nat} (h : written m 0 n) : ∃ bs, readBytes m 0 n = some bs :=
  readBytes_isSome fun j hlo hhi => h j hlo (by omega)

end packet

/-- Settles O32: FAIL and the checks that fail share their end. -/
theorem precheckCallByPlace : Obligations.PrecheckCallByPlace := by
  intro len s s0 hturn
  obtain ⟨e, rfl, -⟩ := sequencerTurn_env hturn
  refine ⟨fun hp => step_at_place hturn hp rfl, ?_, fun hp hpos hle hunwritten => step_at_place hturn hp ?_⟩
  · rintro (hp | ⟨hp, hlen⟩)
    · exact step_at_place hturn hp rfl
    · exact step_at_place hturn hp (congrArg some (packetStep_of_bad_length hlen))
  · exact congrArg some (packetStep_of_unwritten hpos hle hunwritten)

/-! ## Both queries answered, under the eager schedule (46_transmitter.md R701, R703) -/

/-- The state after MODE.query has answered ANALOG and TXEN.query b, with what is left of their scripts. -/
def State.queried (s : State) (len : Byte) (b : Bool) (ms : List RadioMode) (es : List Bool) : State :=
  { s with
    phase := .precheck
    pos := if b then .cssGet len else .fail
    trace := ⟨s.tick, .txenQuery b⟩ :: ⟨s.tick, .modeQuery .analog⟩ :: s.trace
    env := { s.env with modeAns := ms, txenAns := es } }

section queried

variable {s : State} {b : Bool} {ms : List RadioMode} {es : List Bool}

theorem exec_xmit_queried (len : Byte) (he : s.eager) (hmode : s.env.modeAns = .analog :: ms)
    (htxen : s.env.txenAns = b :: es) :
    ∃ t, exec (.xmit len) s = .next t ∧ t.pos = .txenQuery len ∧ step t = .next (s.queried len b ms es) := by
  refine ⟨_, startXmit_of_cons hmode len, rfl, ?_⟩
  refine step_eager_at_place (p := .txenQuery len) (by exact he) rfl (congrArg some ?_)
  exact txenStep_of_cons (by exact htxen) len

end queried

/-- Settles O30: the place the last query leads to is FAIL, or a packet check that fails. -/
theorem failedPreconditionsLeaveHardwareAlone : Obligations.FailedPreconditionsLeaveHardwareAlone := by
  intro len s he
  refine ⟨fun m ms hmode hother => ⟨_, startXmit_of_cons hmode len, ?_⟩, fun ms es hmode htxen => ?_,
    fun ms es hmode htxen hlen => ?_⟩
  · exact run_at_place he (if_neg hother) rfl rfl
  · obtain ⟨t, ht, -, hstep⟩ := exec_xmit_queried len he hmode htxen
    refine ⟨t, ht, (run_succ hstep 1).trans ?_⟩
    exact run_at_place (p := .fail) he rfl rfl rfl
  · obtain ⟨t, ht, -, hstep⟩ := exec_xmit_queried len he hmode htxen
    refine ⟨t, ht, (run_succ hstep 1).trans ?_⟩
    exact run_at_place (p := .cssGet len) he rfl (congrArg some (packetStep_of_bad_length hlen)) rfl

/-- Settles O31: the packet check raises UNINIT. -/
theorem xmitOfUnwrittenPacketFaults : Obligations.XmitOfUnwrittenPacketFaults := by
  intro len s ms es he hmode htxen hpos hle hunwritten
  obtain ⟨t, ht, -, hstep⟩ := exec_xmit_queried len he hmode htxen
  refine ⟨t, ht, (run_succ hstep 1).trans ?_⟩
  exact run_at_place (p := .cssGet len) he rfl (congrArg some (packetStep_of_unwritten hpos hle hunwritten)) rfl

/-! ## ARMED (46_transmitter.md R704 to R706) -/

section packet

variable {m : Memory} {n : Nat} {bs : List Byte}

/-- Symbol k is bit 7 - k mod 8 of packet byte k div 8. -/
theorem getElem?_bitstream (hbs : readBytes m 0 n = some bs) {k : Nat} (hk : k < 8 * n) :
    (bitstream bs)[k]? = some ((pktByte m (k / 8)).getLsbD (7 - k % 8)) := by
  have hlen : k < (bitstream bs).length := by rwa [bitstream_length, (readBytes_eq_some.1 hbs).1]
  have hbyte : pktByte m (k / 8) = bs.getD (k / 8) 0 := by
    rw [← pktByte_of_readBytes hbs (by omega), Nat.zero_add]
  rw [hbyte, ← bitstream_getD, List.getElem?_eq_getElem hlen, List.getD_eq_getElem _ _ hlen]

theorem bitstream_eq_map (hbs : readBytes m 0 n = some bs) :
    bitstream bs = (List.range (8 * n)).map fun k => (pktByte m (k / 8)).getLsbD (7 - k % 8) := by
  have hlen : (bitstream bs).length = 8 * n := by rw [bitstream_length, (readBytes_eq_some.1 hbs).1]
  refine List.ext_getElem (by rw [hlen, List.length_map, List.length_range]) fun k hk _ => ?_
  have hget := getElem?_bitstream hbs (hlen ▸ hk)
  rw [List.getElem?_eq_getElem hk] at hget
  rw [List.getElem_map, List.getElem_range]
  exact Option.some.inj hget

/-- SYM after a packet of n bytes: its bits, then what stood there before. -/
theorem getElem?_writeSym (hbs : readBytes m 0 n = some bs) (old : List Bool) (k : Nat) :
    (writeSym (bitstream bs) old)[k]? =
      if k < 8 * n then some ((pktByte m (k / 8)).getLsbD (7 - k % 8)) else old[k]? := by
  have hlen : (bitstream bs).length = 8 * n := by rw [bitstream_length, (readBytes_eq_some.1 hbs).1]
  rw [writeSym]
  split
  · next hk => rw [List.getElem?_append_left (by omega), getElem?_bitstream hbs hk]
  · next hk =>
    rw [List.getElem?_append_right (by omega), List.getElem?_drop, Nat.add_sub_cancel' (by omega)]

end packet

/-- Settles O33: each place's step is its call. -/
theorem armingCallByPlace : Obligations.ArmingCallByPlace := by
  intro s s0 hturn
  obtain ⟨e, rfl, -⟩ := sequencerTurn_env hturn
  refine ⟨fun len hp hpos hle hwritten => ?_, fun hp => step_at_place hturn hp rfl,
    fun hp => ⟨_, _, rfl, step_at_place hturn hp rfl⟩, fun ok v hp => step_at_place hturn hp rfl,
    fun b hp hsym => step_at_place hturn hp (congrArg some (needValue_of_eq hsym _ _)),
    fun hp => step_at_place hturn hp rfl, fun hp => step_at_place hturn hp rfl, fun hp => step_at_place hturn hp rfl,
    fun hp => step_at_place hturn hp rfl⟩
  obtain ⟨bs, hbs⟩ := readBytes_of_written hwritten
  exact ⟨_, step_at_place hturn hp (congrArg some (packetStep_of_read hpos hle hbs)), rfl⟩

/-- Settles O34: the packet check that passes writes the packet's bits to SYM. -/
theorem bitstreamIsMsbFirst : Obligations.BitstreamIsMsbFirst := by
  intro len s s0 hp hturn hpos hle hwritten
  obtain ⟨bs, hbs⟩ := readBytes_of_written hwritten
  obtain ⟨e, rfl, -⟩ := sequencerTurn_env hturn
  refine ⟨_, step_at_place hturn hp (congrArg some (packetStep_of_read hpos hle hbs)), rfl, fun n hn => ?_,
    fun n hn => ?_⟩
  · exact (getElem?_writeSym hbs s.sym n).trans (if_pos hn)
  · exact (getElem?_writeSym hbs s.sym n).trans (if_neg (by omega))

section arming

variable {s : State}

/-- A1's and A2's calls after CSS.get. -/
theorem run_filterCalls (he : s.eager) (hp : s.pos = .cssOff) {ok : Bool} {v : Half} {fs : List (Bool × Half)}
    {w : Bool} {ws : List Bool} (hread : s.env.feReadAns = (ok, v) :: fs) (hwrite : s.env.feWriteAns = w :: ws) :
    run 3 s = .next { s with
      pos := .firstTone
      savFiltOk := some ok
      savFilt := if ok then some v else s.savFilt
      env := { s.env with feReadAns := fs, feWriteAns := ws }
      trace := eventsAt s.tick [.feWrite s.cfg.filterRegIndex s.cfg.filterOffValue w,
        .feRead s.cfg.filterRegIndex ok v, .cssSet .none] ++ s.trace } := by
  refine run_at_place he hp rfl ?_
  dsimp only [logAct]
  refine run_at_place (p := .filterRead) he rfl (congrArg some (feReadStep_of_cons hread)) ?_
  dsimp only
  exact run_at_place (p := .filterOff ok v) he rfl (congrArg some (feWriteStep_of_cons (by exact hwrite) _ _)) rfl

/-- A3's to A6's calls. -/
theorem run_toneCalls (he : s.eager) (hp : s.pos = .firstTone) {b on : Bool} {as : List Bool}
    (hsym : s.sym[0]? = some b) (hamp : s.env.ampAns = on :: as) :
    run 5 s = .next { s with
      pos := .settle
      savAmpOn := some on
      cur := some b
      env := { s.env with ampAns := as }
      trace := eventsAt s.tick [.muteDrive .asserted, .ampEnable s.cfg.ampMode, .ampQuery s.cfg.ampMode on,
        .routeSelect .tone, .toneSet (toneOf s.cfg b)] ++ s.trace } := by
  refine run_at_place he hp (congrArg some (needValue_of_eq hsym _ _)) ?_
  dsimp only [logAct]
  refine run_at_place (p := .routeTone) he rfl rfl ?_
  dsimp only [logAct]
  refine run_at_place (p := .ampQuery) he rfl (congrArg some (ampQueryStep_of_cons hamp)) ?_
  dsimp only
  refine run_at_place (p := .ampEnable) he rfl rfl ?_
  dsimp only [logAct]
  exact run_at_place (p := .mute) he rfl rfl rfl

end arming

/-- Settles O35: the packet check with CSS.get, the filter's calls, then those from the first tone on; CUR is the first
of the packet's bits. -/
theorem armingCallsInOrder : Obligations.ArmingCallsInOrder := by
  intro len s c cs ok v fs w ws on as hp he hpos hle hwritten hcss hread hwrite hamp
  obtain ⟨bs, hbs⟩ := readBytes_of_written hwritten
  have hfirst : (writeSym (bitstream bs) s.sym)[0]? = some ((pktByte s.pkt 0).getLsbD 7) :=
    (getElem?_writeSym hbs s.sym 0).trans (if_pos (by omega))
  constructor
  constructor
  · refine run_at_place he hp (congrArg some
      ((packetStep_of_read hpos hle hbs).trans (cssGetStep_of_cons hcss))) ?_
    refine (run_add (run_filterCalls (by exact he) rfl (by exact hread) (by exact hwrite)) 5).trans ?_
    exact run_toneCalls (by exact he) rfl hfirst (by exact hamp)
  · rfl

/-- Settles O36: the settle step is one read of TICK. -/
theorem settleTargetIsLeadAfterTick : Obligations.SettleTargetIsLeadAfterTick := by
  intro s s0 hp hturn
  obtain ⟨e, rfl, -⟩ := sequencerTurn_env hturn
  exact step_at_place hturn hp rfl

end Sys2Proof.Machine
end

section
/-! SUPPORT. The symbols of a transmission under any schedule (46_transmitter.md R706 to R708, R713, R715 to R717): what
the poll that passes a wait does, the write-ahead step, and when it is on time. -/

namespace Sys2Proof.Machine

open Sys2Proof.Laws

/-! ## Symbol ends (46_transmitter.md R708, R713) -/

/-- Settles O45: c(n) grows by the next symbol's duration. -/
theorem symbolEndsAddUp : Obligations.SymbolEndsAddUp := by
  intro n
  induction n with
  | zero => decide
  | succ n ih =>
    rw [List.range_succ, List.map_append, List.sum_append, ih, List.map_singleton, List.sum_singleton]
    exact symbolEnd_add_durTicks (i := ⟨(n + 1) % 3, Nat.mod_lt _ (by decide)⟩) rfl

/-! ## Polls that pass a wait (46_transmitter.md R717) -/

/-- A poll that finds its target reached makes the step that follows the wait. -/
theorem pollWait_of_reached {s : State} {tb : Nat} (htb : s.tb = some tb)
    (hreached : reached s.cfg s.tick (waitPoint s.cfg s.pos tb) = true) (k : Nat → Out) :
    pollWait s k = some (k tb) := by
  rw [pollWait_eq htb, if_pos hreached]

/-- Settles O38: the poll's step begins symbol 0, or the symbol after SIDX. -/
theorem symbolBeginsAtPassedWait : Obligations.SymbolBeginsAtPassedWait := by
  intro s s0 start hturn htb hreached
  obtain ⟨e, rfl, -⟩ := sequencerTurn_env hturn
  refine ⟨fun hp => step_at_place hturn hp ?_, fun hp hnext hpidx => step_at_place hturn hp ?_⟩
  · exact pollWait_of_reached (s := { s with pos := .firstSymbol, env := e }) htb hreached _
  · have hdur : durTicks (s.pidx + 1) = DUR.getD ((s.sidx + 1) % 3) 0 := by
      rw [durTicks, Fin.val_add, hpidx]
      exact congrArg (DUR.getD · 0) (Nat.mod_add_mod ..)
    rw [← hdur]
    exact (pollWait_of_reached (s := { s with pos := .boundary, env := e }) htb hreached _).trans
      (congrArg some (if_neg hnext))

/-! ## The write-ahead step (46_transmitter.md R707, R715) -/

section

variable {s : State}

/-- s after a write-ahead step for the target that leaves the tone alone. -/
def State.checked (s : State) (target : Nat) : State :=
  { s with
    pos := .boundary
    stalled := false
    fault := { s.fault with late := s.fault.late || s.stalled || reached s.cfg s.tick target } }

@[simp] theorem State.checked_pos (target : Nat) : (s.checked target).pos = .boundary := rfl

/-- Without a next symbol the tone stays. -/
theorem symbolStep_of_last {target : Nat} (hlast : ¬ s.sidx + 1 < s.nsym) :
    symbolStep target s = .next (s.checked target) := by
  simp only [symbolStep, markLate_eq, hlast, if_false, ← Bool.or_assoc]
  rfl

/-- A next symbol switches the tone when it differs from CUR. -/
theorem symbolStep_of_next {target : Nat} {b c : Bool} (hnext : s.sidx + 1 < s.nsym)
    (hb : s.sym[s.sidx + 1]? = some b) (hc : s.cur = some c) :
    symbolStep target s = .next (if b = c then s.checked target else
      { s.checked target with cur := some b, trace := ⟨s.tick, .toneSet (toneOf s.cfg b)⟩ :: s.trace }) := by
  simp only [symbolStep, markLate_eq, hnext, if_true, needValue_of_eq hb, needValue_of_eq hc, ← Bool.or_assoc]
  split <;> rfl

/-- The write-ahead step of any symbol: the registers it writes, and when it switches the tone. -/
theorem symbolStep_effect (h : s.Inv) (hp : s.pos = .writeAhead) (target : Nat) :
    ∃ t, symbolStep target s = .next t ∧
      t = { s.checked target with cur := t.cur, trace := t.trace } ∧
      (∀ b, s.sidx + 1 < s.nsym → s.sym[s.sidx + 1]? = some b → s.cur ≠ some b →
        t.cur = some b ∧ t.trace = ⟨s.tick, .toneSet (toneOf s.cfg b)⟩ :: s.trace) ∧
      ((s.sidx + 1 = s.nsym ∨ s.sym[s.sidx + 1]? = s.cur) → t.cur = s.cur ∧ t.trace = s.trace) := by
  obtain ⟨hsidx, -, hcur⟩ := h.in_symbol hp
  have hlen := (h.packet (by rw [hp]; decide)).2
  by_cases hnext : s.sidx + 1 < s.nsym
  · have hb : s.sym[s.sidx + 1]? = some s.sym[s.sidx + 1] := List.getElem?_eq_getElem (by omega)
    have hc : s.cur = some s.sym[s.sidx] := hcur.trans (List.getElem?_eq_getElem (by omega))
    have hstep := symbolStep_of_next (target := target) hnext hb hc
    by_cases hsame : s.sym[s.sidx + 1] = s.sym[s.sidx]
    · rw [if_pos hsame] at hstep
      refine ⟨_, hstep, rfl, fun b _ hb' hne => ?_, fun _ => ⟨rfl, rfl⟩⟩
      rw [← hb', hb, hc, hsame] at hne
      exact absurd rfl hne
    · rw [if_neg hsame] at hstep
      refine ⟨_, hstep, rfl, fun b _ hb' _ => ?_, ?_⟩
      · obtain rfl := Option.some.inj (hb.symm.trans hb')
        exact ⟨rfl, rfl⟩
      · rintro (hlast | heq)
        · omega
        · rw [hb, hc] at heq
          exact absurd (Option.some.inj heq) hsame
  · exact ⟨_, symbolStep_of_last hnext, rfl, fun _ hlt => absurd hlt hnext, fun _ => ⟨rfl, rfl⟩⟩

end

/-- Settles O40: the poll that finds the write-ahead point reached is the write-ahead step. -/
theorem writeAheadStepEffect : Obligations.WriteAheadStepEffect := by
  intro s s0 target h hp hturn htb hreached
  obtain ⟨e, rfl, -⟩ := sequencerTurn_env hturn
  obtain ⟨t, ht, hrest⟩ := symbolStep_effect (s := { s with pos := .writeAhead, env := e })
    (hp ▸ h.withEnv e) rfl target
  refine ⟨t, step_at_place hturn hp ?_, hrest⟩
  exact (pollWait_of_reached (s := { s with pos := .writeAhead, env := e }) htb hreached _).trans (congrArg some ht)

/-- Settles O39: the settle poll begins symbol 0, and the invariant it keeps lets the write-ahead step of any symbol
follow. -/
theorem firstWriteAheadStepEffect : Obligations.FirstWriteAheadStepEffect := by
  intro s rest start target h hp hmoves htb htarget hreached hahead
  have hbegin := (symbolBeginsAtPassedWait s _ start (.inl ⟨_, hmoves, rfl⟩) htb hreached).1 hp
  subst htarget
  obtain ⟨t, ht, hframe, hswitch, hstay⟩ := writeAheadStepEffect _ _ _ (stepKeepsInvariant s _ h hbegin) rfl
    (.inl ⟨rest, rfl, rfl⟩) rfl hahead
  exact ⟨t, (run_succ hbegin 1).trans (run_succ ht 0), hframe, hswitch, fun h => hstay (h.imp_left Eq.symm)⟩

/-! ## On time (46_transmitter.md R716) -/

/-- The distance from k ticks before a target is k more than that from the target. -/
theorem tickSub_tickSub (p : Params) (tick target k : Nat) :
    tickSub p tick (tickSub p target k) = tickAdd p (tickSub p tick target) k := by
  have hsum : tickAdd p (tickSub p tick target) k =
      (BitVec.ofNat p.tickBits tick - BitVec.ofNat p.tickBits target + BitVec.ofNat p.tickBits k).toNat := by
    rw [tickSub_eq_toNat, BitVec.toNat_add, BitVec.toNat_ofNat, Nat.add_mod_mod]
    rfl
  rw [hsum, tickSub_eq_toNat, tickSub_eq_toNat, BitVec.ofNat_toNat, BitVec.setWidth_eq, ← sub_add]

/-- The distances between two different ticks, one way and the other, make a whole period. -/
theorem tickSub_swap (p : Params) {tick target : Nat} (hne : tickSub p tick target ≠ 0) :
    tickSub p target tick = tickSpan p - tickSub p tick target := by
  have hneg : BitVec.ofNat p.tickBits target - BitVec.ofNat p.tickBits tick =
      -(BitVec.ofNat p.tickBits tick - BitVec.ofNat p.tickBits target) := (neg_sub _ _).symm
  have hspan := tickSpan_pos p
  rw [tickSub_eq_toNat p target, hneg, BitVec.toNat_neg, ← tickSub_eq_toNat]
  exact Nat.mod_eq_of_lt (show tickSpan p - _ < tickSpan p by omega)

/-- Around the end of the period. -/
theorem tickAdd_of_ge {p : Params} {a k : Nat} (ha : a < tickSpan p) (hk : k < tickSpan p) (hge : tickSpan p ≤ a + k) :
    tickAdd p a k = a + k - tickSpan p := by
  rw [tickAdd, Nat.mod_eq_sub_mod hge, Nat.mod_eq_of_lt (by omega)]

/-- Between the write-ahead point of a symbol and its end, TICK is at most LEAD_TICKS before the end and, LEAD_TICKS
being below the symbol's duration, after the symbol's begin. -/
theorem distances_of_on_time {p : Params} {tick target lead dur : Nat} (hlead : lead < dur) (hdur : dur ≤ 9)
    (hahead : reached p tick (tickSub p target lead) = true) (hnot : reached p tick target = false) :
    1 ≤ tickSub p target tick ∧ tickSub p target tick ≤ lead ∧ 1 ≤ tickSub p tick (tickSub p target dur) ∧
      tickSub p tick (tickSub p target dur) < dur := by
  have hspan := tickSpan_eq p
  have hhalf := half_span_ge p
  have hback := tickSub_lt p tick target
  rw [reached_iff, tickSub_tickSub] at hahead
  rw [Bool.eq_false_iff, ne_eq, reached_iff] at hnot
  have hwrap : tickSpan p ≤ tickSub p tick target + lead := by
    by_contra hlt
    rw [tickAdd, Nat.mod_eq_of_lt (by omega)] at hahead
    omega
  rw [tickSub_tickSub, tickAdd_of_ge hback (by omega) (by omega), tickSub_swap p (by omega)]
  omega

/-- A step from the write-ahead wait to the boundary wait is the write-ahead step, at a poll that finds its point
reached. -/
theorem symbolStep_of_step {s t : State} {target : Nat} (hp : s.pos = .writeAhead) (htb : s.tb = some target)
    (ht : step s = .next t) (hpos : t.pos = .boundary) :
    reached s.cfg s.tick (tickSub s.cfg target s.cfg.leadTicks) = true ∧
      ∃ e : Env, symbolStep target { s with env := e } = .next t := by
  obtain ⟨e, -, rfl | rfl | ho | rfl⟩ := step_next_cases ht
  · exact absurd (hp.symm.trans hpos) (by decide)
  · simp at hpos
  · have hpoll : xmitStep { s with env := e } = writeAheadStep { s with env := e } := by simp only [xmitStep, hp]
    have hpoint : waitPoint s.cfg s.pos target = tickSub s.cfg target s.cfg.leadTicks := by rw [hp]; rfl
    rw [seqStep, if_neg (by simp [hp]), hpoll, writeAheadStep, pollWait_eq (s := { s with env := e }) htb] at ho
    dsimp only at ho
    rw [hpoint] at ho
    split at ho
    · next hreached => exact ⟨hreached, e, Option.some.inj ho⟩
    · cases ho
  · exact absurd (hp.symm.trans hpos) (by decide)

/-- Settles O41: with LATE clear, TICK lies between the write-ahead point and the symbol's end. -/
theorem switchStaysInsideItsSymbol : Obligations.SwitchStaysInsideItsSymbol := by
  intro s t target start h hp htb hstart ht hpos hlate
  obtain ⟨hahead, e, hsymbol⟩ := symbolStep_of_step hp htb ht hpos
  obtain ⟨t', ht', heq, -⟩ := symbolStep_effect (s := { s with env := e }) (h.withEnv e) hp target
  obtain rfl : t' = t := Host.Outcome.next.inj (ht'.symm.trans hsymbol)
  have hnot : (s.fault.late || s.stalled || reached s.cfg s.tick target) = false := by
    rw [heq] at hlate
    exact hlate
  rw [Bool.or_eq_false_iff] at hnot
  obtain ⟨-, hpidx, -⟩ := h.in_symbol hp
  obtain ⟨hdur, hdur'⟩ := durTicks_bounds s.pidx
  rw [durTicks, hpidx] at hdur hdur'
  have hlead := s.cfg.lead_le
  subst hstart
  exact distances_of_on_time (by omega) hdur' hahead hnot.2

end Sys2Proof.Machine
end

section
/-! SUPPORT. The restore (46_transmitter.md R709, R710, R718), place by place and under the eager schedule. -/

namespace Sys2Proof.Machine

open Sys2Proof.Laws

section

variable {s : State}

/-- RS1, at a poll that finds the last symbol's end reached. -/
theorem boundaryStep_of_last {tb : Nat} (htb : s.tb = some tb)
    (hreached : reached s.cfg s.tick (waitPoint s.cfg s.pos tb) = true) (hlast : s.sidx + 1 = s.nsym) :
    boundaryStep s = some (.next { s with
      phase := .restoring
      pos := .routeMic
      sidx := s.nsym
      pidx := s.pidx + 1
      trace := ⟨s.tick, .toneOff⟩ :: s.trace }) := by
  have hstep : toneOffStep (advanceSymbol s) = .next { s with
      phase := .restoring
      pos := .routeMic
      sidx := s.sidx + 1
      pidx := s.pidx + 1
      trace := ⟨s.tick, .toneOff⟩ :: s.trace } := rfl
  rw [hlast] at hstep
  exact (pollWait_of_reached htb hreached _).trans (congrArg some ((if_pos hlast).trans hstep))

/-- RS4 writes SAV_FILT after a good read, and the safe default after a failed one. -/
theorem filterRestoreStep_eq {ok : Bool} {v : Half} (hok : s.savFiltOk = some ok)
    (hv : ok = true → s.savFilt = some v) :
    filterRestoreStep s = feWriteStep (if ok then v else s.cfg.filterSafeDefault) .ampRestore s := by
  rw [filterRestoreStep, needValue_of_eq hok]
  cases ok with
  | true => exact needValue_of_eq (hv rfl) _ _
  | false => rfl

end

/-- Settles O47: each place's step is its call, and RS6 follows at once when RS5 is skipped. -/
theorem restoreCallByPlace : Obligations.RestoreCallByPlace := by
  intro s s0 hturn
  obtain ⟨e, rfl, -⟩ := sequencerTurn_env hturn
  refine ⟨fun start hp htb hreached hlast => step_at_place hturn hp ?_, fun hp => step_at_place hturn hp rfl,
    fun c hp hc => step_at_place hturn hp (congrArg some (needValue_of_eq hc _ _)),
    fun ok v hp hok hv => step_at_place hturn hp (congrArg some (filterRestoreStep_eq hok hv)),
    fun hp hon => step_at_place hturn hp (congrArg some (needValue_of_eq hon _ _)), ?_,
    fun hp => step_at_place hturn hp rfl⟩
  · exact boundaryStep_of_last (s := { s with pos := .boundary, env := e }) htb hreached hlast
  · rintro (hp | ⟨hp, hon⟩)
    · exact step_at_place hturn hp rfl
    · exact step_at_place hturn hp (congrArg some (needValue_of_eq hon _ _))

/-- Settles O46: the places of the restore one after the other, RS5's only when the amplifier was off. -/
theorem restoreCallsInOrder : Obligations.RestoreCallsInOrder := by
  intro s start c ok v on w ws hp he htb hreached hlast hcss hok hv hon hwrite
  have hrun : run 4 s = .next { s with
      phase := .restoring
      pos := .ampRestore
      sidx := s.nsym
      pidx := s.pidx + 1
      env := { s.env with feWriteAns := ws }
      trace := eventsAt s.tick
        [.feWrite s.cfg.filterRegIndex (if ok then v else s.cfg.filterSafeDefault) w, .cssSet c, .routeSelect .mic,
          .toneOff] ++ s.trace } := by
    refine run_at_place he hp (boundaryStep_of_last (s := { s with pos := .boundary }) htb hreached hlast) ?_
    dsimp only
    refine run_at_place (p := .routeMic) he rfl rfl ?_
    dsimp only [logAct]
    refine run_at_place (p := .cssRestore) he rfl (congrArg some (needValue_of_eq hcss _ _)) ?_
    dsimp only [logAct]
    exact run_at_place (p := .filterRestore) he rfl
      (congrArg some ((filterRestoreStep_eq (by exact hok) (by exact hv)).trans
        (feWriteStep_of_cons (by exact hwrite) _ _))) rfl
  cases on with
  | true =>
    refine (run_add hrun 2).trans ?_
    refine run_at_place (p := .ampRestore) he rfl (congrArg some (needValue_of_eq hon _ _)) ?_
    dsimp only [logAct]
    exact run_at_place (p := .finish) he rfl rfl rfl
  | false =>
    refine (run_add hrun 3).trans ?_
    refine run_at_place (p := .ampRestore) he rfl (congrArg some (needValue_of_eq hon _ _)) ?_
    dsimp only [logAct]
    refine run_at_place (p := .unmute) he rfl rfl ?_
    dsimp only [logAct]
    exact run_at_place (p := .finish) he rfl rfl rfl

/-- Settles O51: the registers the restore reads hold the queries' answers. -/
theorem restoreWritesQueriedValues : Obligations.RestoreWritesQueriedValues := by
  intro s s0 h hturn
  obtain ⟨-, -, hcssCall, hfilterCall, hoffCall, honCall, -⟩ := restoreCallByPlace s s0 hturn
  refine ⟨fun hp => ?_, fun hp => ?_, fun hp => ?_⟩
  · obtain ⟨hsome, hlast⟩ := h.css (by rw [hp]; decide)
    obtain ⟨c, hc⟩ := Option.isSome_iff_exists.1 hsome
    exact ⟨_, c, hcssCall c hp hc, hlast ▸ hc, rfl⟩
  · obtain ⟨ok, v, hlast, hok, hv⟩ := h.filter (by rw [hp]; decide)
    exact ⟨_, ok, v, _, hfilterCall ok v hp hok hv, hlast, rfl⟩
  · obtain ⟨hsome, hlast⟩ := h.amp (by rw [hp]; decide)
    obtain ⟨on, hon⟩ := Option.isSome_iff_exists.1 hsome
    cases on with
    | true => exact ⟨_, true, honCall (.inr ⟨hp, hon⟩), hlast ▸ hon, rfl⟩
    | false => exact ⟨_, false, hoffCall hp hon, hlast ▸ hon, rfl⟩

end Sys2Proof.Machine
end

section
/-! SUPPORT. The steps of a transmission leave the encoder's registers and the configuration alone (46_transmitter.md
R700). -/

namespace Sys2Proof.Machine

open Sys2Proof.Laws

/-! ## The encoder's state (46_transmitter.md R700) -/

/-- The agent that moves in a step; it is reset only when reset is next. -/
theorem step_eq_moveStep (s : State) :
    ∃ (e : Env) (m : Move), step s = moveStep m { s with env := e } ∧ (m = .reset → s.resetNext) := by
  cases hmoves : s.env.moves with
  | cons m rest =>
    exact ⟨_, m, step_scripted hmoves, fun hm => .inl (by rw [hmoves, hm]; rfl)⟩
  | nil =>
    cases hfallback : s.env.fallback with
    | free =>
      refine ⟨{ s.env with draws := s.env.draws + 1 }, Config.freeMove s.env.draws, ?_,
        fun hm => .inr ⟨hmoves, hfallback, hm⟩⟩
      simp only [step, scheduledStep, hmoves, hfallback]
    | eager =>
      have hstep := step_eager hmoves hfallback
      cases ho : seqStep s with
      | some o => exact ⟨s.env, .sequencer, by rw [hstep, moveStep, ho]; rfl, by simp⟩
      | none => exact ⟨s.env, .tick, by rw [hstep, moveStep, ho]; rfl, by simp⟩

/-- The encoder's registers and the configuration are the same in both states. -/
structure SameEncoder (s t : State) : Prop where
  pkt : t.pkt = s.pkt := by rfl
  crc : t.crc = s.crc := by rfl
  csr : t.csr = s.csr := by rfl
  dprev : t.dprev = s.dprev := by rfl
  cfg : t.cfg = s.cfg := by rfl

/-- If an outcome is a next state, the encoder is as in s. -/
def KeepsEncoder (s : State) (o : Out) : Prop := ∀ t, o = .next t → SameEncoder s t

section

variable {s t : State}

theorem keepsEncoder_next (h : SameEncoder s t := by exact {}) : KeepsEncoder s (.next t) := by
  rintro _ ⟨⟩
  exact h

theorem needValue_keepsEncoder {α : Type} {o : Option α} {k : α → Out} (hk : ∀ a, KeepsEncoder s (k a))
    (hsame : SameEncoder s t := by exact {}) : KeepsEncoder s (needValue o t k) := by
  rcases needValue_cases o t k with ⟨a, -, heq⟩ | ⟨-, heq⟩ <;> rw [heq]
  · exact hk a
  · exact keepsEncoder_next { hsame with }

theorem pollWait_keepsEncoder {k : Nat → Out} {o : Out} (ho : pollWait s k = some o)
    (hk : ∀ tb, KeepsEncoder s (k tb)) : KeepsEncoder s o := by
  unfold pollWait at ho
  split at ho
  · obtain rfl := Option.some.inj ho
    exact keepsEncoder_next
  · split at ho
    · obtain rfl := Option.some.inj ho
      exact hk _
    · cases ho

theorem packetStep_keepsEncoder (len : Byte) : KeepsEncoder s (packetStep len s) := by
  simp only [packetStep]
  split
  · exact keepsEncoder_next
  · split
    · exact keepsEncoder_next
    · split <;> exact keepsEncoder_next

theorem symbolStep_keepsEncoder (target : Nat) : KeepsEncoder s (symbolStep target s) := by
  simp only [symbolStep, markLate_eq]
  split
  · refine needValue_keepsEncoder fun b => needValue_keepsEncoder fun c => ?_
    split <;> exact keepsEncoder_next
  · exact keepsEncoder_next

/-- Inside XMIT or POSTID, place by place. -/
theorem xmitStep_keepsEncoder {o : Out} (ho : xmitStep s = some o) : KeepsEncoder s o := by
  cases hp : s.pos <;> simp only [xmitStep, hp, Option.some.injEq, reduceCtorEq] at ho
  case fail | txenQuery | cssOff | filterRead | filterOff | routeTone | ampQuery | ampEnable | mute | settle |
      routeMic | unmute | finish => exact ho ▸ keepsEncoder_next
  case cssGet len => exact ho ▸ packetStep_keepsEncoder len
  case firstTone | cssRestore => exact ho ▸ needValue_keepsEncoder fun _ => keepsEncoder_next
  case firstSymbol => exact pollWait_keepsEncoder ho fun _ => keepsEncoder_next
  case writeAhead => exact pollWait_keepsEncoder ho symbolStep_keepsEncoder
  case boundary =>
    refine pollWait_keepsEncoder ho fun start => ?_
    dsimp only
    split <;> exact keepsEncoder_next
  case filterRestore =>
    refine ho ▸ needValue_keepsEncoder fun ok => ?_
    split
    · exact needValue_keepsEncoder fun _ => keepsEncoder_next
    · exact keepsEncoder_next
  case ampRestore =>
    refine ho ▸ needValue_keepsEncoder fun on => ?_
    split <;> exact keepsEncoder_next

end

/-- Settles O54: only reset and the port write the encoder's registers, and the port waits for the sequence to end. -/
theorem transmissionLeavesEncoderAlone : Obligations.TransmissionLeavesEncoderAlone := by
  have hall : ∀ {s t : State}, SameEncoder s t →
      t.pkt = s.pkt ∧ t.crc = s.crc ∧ t.csr = s.csr ∧ t.dprev = s.dprev ∧ t.cfg = s.cfg :=
    fun ⟨hpkt, hcrc, hcsr, hdprev, hcfg⟩ => ⟨hpkt, hcrc, hcsr, hdprev, hcfg⟩
  refine ⟨fun len s t ht => hall (keepsEncoder_next {} t ht), fun s t hbusy hreset ht => hall ?_⟩
  obtain ⟨e, m, hstep, hm⟩ := step_eq_moveStep s
  rw [hstep] at ht
  cases m with
  | tick => exact keepsEncoder_next {} t ht
  | reset => exact absurd (hm rfl) hreset
  | sequencer =>
    rw [moveStep, seqStep, if_neg hbusy] at ht
    cases ho : xmitStep { s with env := e } with
    | none =>
      rw [ho] at ht
      exact keepsEncoder_next {} t ht
    | some o =>
      rw [ho] at ht
      exact { xmitStep_keepsEncoder ho t ht with }

end Sys2Proof.Machine
end

section
/-! SUPPORT. Where each step of an armed transmission goes (46_transmitter.md R710, R802): on, with no fault but LATE,
and with its tone-generator call counted (R714); from these, eager transmissions as a whole. -/

namespace Sys2Proof.Machine

open Sys2Proof.Laws

/-! ## Tone-generator calls (46_transmitter.md R714) -/

theorem toneCalls_cons (e : Event) (tr : List Event) :
    toneCalls (e :: tr) = (if e.act.isToneCall then 1 else 0) + toneCalls tr := by
  cases h : e.act.isToneCall <;> simp [toneCalls, h, Nat.add_comm]

/-- The switches still to come when the tone of CUR is set and symbol k is the next to be compared with it. -/
def State.switchesFrom (s : State) (k : Nat) : Nat := changes (s.cur.toList ++ (s.sym.take s.nsym).drop k)

/-- How many tone-generator calls a transmission at the place p has still to make: A3's, the switches, RS1's. -/
def Pos.tonesLeft (p : Pos) (s : State) : Nat :=
  match p with
  | .cssOff | .filterRead | .filterOff _ _ | .firstTone => 2 + changes (s.sym.take s.nsym)
  | .routeTone | .ampQuery | .ampEnable | .mute | .settle | .firstSymbol => 1 + s.switchesFrom 1
  | .writeAhead => 1 + s.switchesFrom (s.sidx + 1)
  | .boundary => 1 + s.switchesFrom (s.sidx + 2)
  | _ => 0

section

variable {s : State}

theorem drop_symbols_of_lt (hlen : s.nsym ≤ s.sym.length) {k : Nat} (hk : k < s.nsym) {b : Bool}
    (hb : s.sym[k]? = some b) : (s.sym.take s.nsym).drop k = b :: (s.sym.take s.nsym).drop (k + 1) := by
  have hk' : k < (s.sym.take s.nsym).length := by rw [List.length_take]; omega
  have hget : (s.sym.take s.nsym)[k] = b := by
    rw [List.getElem_take]
    exact Option.some.inj ((List.getElem?_eq_getElem (by omega)).symm.trans hb)
  rw [List.drop_eq_getElem_cons hk', hget]

/-- No symbol is left to switch to. -/
theorem switchesFrom_of_ge {k : Nat} (hk : s.nsym ≤ k) : s.switchesFrom k = 0 := by
  rw [State.switchesFrom, List.drop_eq_nil_of_le (by rw [List.length_take]; omega), List.append_nil]
  cases s.cur <;> rfl

/-- The comparison with symbol k counts one switch when they differ. -/
theorem switchesFrom_of_lt (hlen : s.nsym ≤ s.sym.length) {k : Nat} (hk : k < s.nsym) {b c : Bool}
    (hb : s.sym[k]? = some b) (hc : s.cur = some c) :
    s.switchesFrom k = (if c = b then 0 else 1) + changes (b :: (s.sym.take s.nsym).drop (k + 1)) := by
  rw [State.switchesFrom, drop_symbols_of_lt hlen hk hb, hc]
  rfl

end

/-! ## What each place reads (46_transmitter.md R705, R709) -/

/-- The registers that the steps from the place p of an armed transmission on read without writing them first hold
values. -/
structure State.ReadyAt (s : State) (p : Pos) : Prop where
  packet : 1 ≤ s.nsym ∧ s.nsym ≤ s.sym.length
  css : s.savCss.isSome = true
  filter : 7 ≤ p.rank → ∃ ok v, s.savFiltOk = some ok ∧ (ok = true → s.savFilt = some v)
  tone : 8 ≤ p.rank → p.rank ≤ 15 → s.cur.isSome = true
  amp : 10 ≤ p.rank → s.savAmpOn.isSome = true
  tb : 13 ≤ p.rank → s.tb.isSome = true

/-- The place q reads no register that the place p does not. -/
structure ReadsNoMore (p q : Pos) : Prop where
  filter : 7 ≤ q.rank → 7 ≤ p.rank := by simp [Pos.rank]
  tone : 8 ≤ q.rank → q.rank ≤ 15 → 8 ≤ p.rank ∧ p.rank ≤ 15 := by simp [Pos.rank]
  amp : 10 ≤ q.rank → 10 ≤ p.rank := by simp [Pos.rank]
  tb : 13 ≤ q.rank → 13 ≤ p.rank := by simp [Pos.rank]

theorem State.ReadyAt.mono {s : State} {p q : Pos} (h : s.ReadyAt p) (hq : ReadsNoMore p q) : s.ReadyAt q where
  packet := h.packet
  css := h.css
  filter hr := h.filter (hq.filter hr)
  tone hlo hhi := h.tone (hq.tone hlo hhi).1 (hq.tone hlo hhi).2
  amp hr := h.amp (hq.amp hr)
  tb hr := h.tb (hq.tb hr)

theorem State.Inv.readyAt {s : State} (h : s.Inv) (harmed : 4 ≤ s.pos.rank) : s.ReadyAt s.pos where
  packet := h.packet harmed
  css := h.css_saved harmed
  filter hr := by
    rcases h.filter_saved hr with hok | ⟨hok, hfilt⟩
    · exact ⟨false, 0, hok, by simp⟩
    · obtain ⟨v, hv⟩ := Option.isSome_iff_exists.1 hfilt
      exact ⟨true, v, hok, fun _ => hv⟩
  tone hlo hhi := by
    obtain ⟨hpos, hlen⟩ := h.packet harmed
    rcases Nat.lt_or_ge 13 s.pos.rank with hsymbol | hbefore
    · cases hp : s.pos <;> simp only [hp, Pos.rank] at hsymbol hhi
      case writeAhead =>
        obtain ⟨hlt, -, hcur⟩ := h.in_symbol hp
        rw [hcur, List.getElem?_eq_getElem (by omega)]
        rfl
      case boundary =>
        obtain ⟨hlt, -, hcur⟩ := h.in_symbols hp
        rw [hcur, List.getElem?_eq_getElem (by omega)]
        rfl
      all_goals omega
    · rw [h.first_tone hlo hbefore, List.getElem?_eq_getElem (by omega)]
      rfl
  amp := h.amp_saved
  tb := h.tb_set

/-! ## The step of each place -/

/-- t is one step of an armed transmission after s: further on in the sequence, at the next symbol, or complete with
RES = 1; neither ILLEGAL nor UNINIT is raised, the schedule stays, and the tone-generator calls made and left add up. -/
structure Forward (s t : State) : Prop where
  illegal : t.fault.illegal = s.fault.illegal
  uninit : t.fault.uninit = s.fault.uninit
  schedule : t.env.moves = s.env.moves ∧ t.env.fallback = s.env.fallback
  tones : toneCalls t.trace + t.pos.tonesLeft t = toneCalls s.trace + s.pos.tonesLeft s
  place : (t.ReadyAt t.pos ∧
      (s.pos.rank < t.pos.rank ∨ (s.pos = .boundary ∧ t.pos = .writeAhead ∧ t.sidx = s.sidx + 1))) ∨
    (s.pos = .finish ∧ t.pos = .idle ∧ t.res = some 1)

/-- An outcome is a next state, one step of an armed transmission after s. -/
def GoesForward (s : State) (o : Out) : Prop := ∃ t, o = .next t ∧ Forward s t

section

variable {s t : State} {p q : Pos}

/-- A step to a later place, with any registers written. -/
theorem goesForward_to (hp : s.pos = p) (hready : t.ReadyAt t.pos)
    (htones : toneCalls t.trace + t.pos.tonesLeft t = toneCalls s.trace + p.tonesLeft s)
    (hrank : p.rank < t.pos.rank := by simp [Pos.rank])
    (hschedule : t.env.moves = s.env.moves ∧ t.env.fallback = s.env.fallback := by exact ⟨rfl, rfl⟩)
    (hillegal : t.fault.illegal = s.fault.illegal := by rfl) (huninit : t.fault.uninit = s.fault.uninit := by rfl) :
    GoesForward s (.next t) := by
  subst hp
  exact ⟨t, rfl, hillegal, huninit, hschedule, htones, .inl ⟨hready, .inl hrank⟩⟩

/-- A port call that is not the tone generator's; its answer may be saved. -/
theorem goesForward_log {u : State} {a : Act} (hp : s.pos = p) (hready : u.ReadyAt u.pos)
    (hschedule : u.env.moves = s.env.moves ∧ u.env.fallback = s.env.fallback := by exact ⟨rfl, rfl⟩)
    (ha : a.isToneCall = false := by rfl) (hleft : u.pos.tonesLeft u = p.tonesLeft s := by rfl)
    (hrank : p.rank < u.pos.rank := by simp [Pos.rank]) (htrace : u.trace = s.trace := by rfl)
    (hillegal : u.fault.illegal = s.fault.illegal := by rfl) (huninit : u.fault.uninit = s.fault.uninit := by rfl) :
    GoesForward s (.next (logAct a u)) := by
  have htones : toneCalls (logAct a u).trace = toneCalls s.trace := by
    rw [logAct_trace, toneCalls_cons, ha, htrace]
    exact Nat.zero_add _
  exact goesForward_to hp { hready with } (htones ▸ congrArg (toneCalls s.trace + ·) hleft) hrank hschedule hillegal
    huninit

/-- A call on the tone generator is one of those left. -/
theorem goesForward_tone {u : State} {a : Act} (hp : s.pos = p) (hready : u.ReadyAt u.pos)
    (hleft : 1 + u.pos.tonesLeft u = p.tonesLeft s) (ha : a.isToneCall = true := by rfl)
    (hrank : p.rank < u.pos.rank := by simp [Pos.rank]) (htrace : u.trace = s.trace := by rfl)
    (hschedule : u.env.moves = s.env.moves ∧ u.env.fallback = s.env.fallback := by exact ⟨rfl, rfl⟩)
    (hillegal : u.fault.illegal = s.fault.illegal := by rfl) (huninit : u.fault.uninit = s.fault.uninit := by rfl) :
    GoesForward s (.next (logAct a u)) := by
  have htones : toneCalls (logAct a u).trace = toneCalls s.trace + 1 := by
    rw [logAct_trace, toneCalls_cons, ha, htrace]
    exact Nat.add_comm ..
  refine goesForward_to hp { hready with } ?_ hrank hschedule hillegal huninit
  rw [htones, ← hleft]
  exact Nat.add_assoc ..

/-- A call that saves nothing. -/
theorem goesForward_call {a : Act} {e : Env} (h : s.ReadyAt p) (hp : s.pos = p)
    (hschedule : e.moves = s.env.moves ∧ e.fallback = s.env.fallback := by exact ⟨rfl, rfl⟩)
    (ha : a.isToneCall = false := by rfl) (hleft : q.tonesLeft s = p.tonesLeft s := by rfl)
    (hq : ReadsNoMore p q := by exact {}) (hrank : p.rank < q.rank := by simp [Pos.rank]) :
    GoesForward s (.next (logAct a { s with pos := q, env := e })) :=
  goesForward_log hp { h.mono hq with } hschedule ha hleft hrank

theorem draw_schedule {α : Type} {script : List α} {free : Nat → α} {setScript : List α → Env → Env} {e : Env}
    (hs : ∀ r, (setScript r e).host = e.host ∧ (setScript r e).moves = e.moves ∧
      (setScript r e).fallback = e.fallback := by exact fun _ => ⟨rfl, rfl, rfl⟩) :
    (draw script free setScript e).2.moves = e.moves ∧ (draw script free setScript e).2.fallback = e.fallback :=
  (draw_keeps script free setScript e hs).2

/-! ### ARMED (46_transmitter.md R705, R706) -/

theorem feReadStep_goesForward (h : s.ReadyAt .filterRead) (hp : s.pos = .filterRead) : GoesForward s (feReadStep s) :=
  goesForward_call h hp draw_schedule

theorem filterOffStep_goesForward {ok : Bool} {v : Half} (h : s.ReadyAt (.filterOff ok v))
    (hp : s.pos = .filterOff ok v) :
    GoesForward s (feWriteStep s.cfg.filterOffValue .firstTone (saveFilter ok v s)) :=
  goesForward_log hp {
    packet := h.packet
    css := h.css
    filter := fun _ => ⟨ok, v, rfl, fun hok => if_pos hok⟩
    tone := by simp [Pos.rank]
    amp := by simp [Pos.rank]
    tb := by simp [Pos.rank] } draw_schedule

/-- A3's call is the first of the tone generator's. -/
theorem firstToneStep_goesForward (h : s.ReadyAt .firstTone) (hp : s.pos = .firstTone) :
    GoesForward s (firstToneStep s) := by
  obtain ⟨hpos, hlen⟩ := h.packet
  have hb : s.sym[0]? = some s.sym[0] := List.getElem?_eq_getElem (by omega)
  have hsymbols := drop_symbols_of_lt hlen hpos hb
  rw [List.drop_zero] at hsymbols
  rw [firstToneStep, needValue_of_eq hb]
  refine goesForward_tone hp {
    packet := h.packet
    css := h.css
    filter := fun _ => h.filter (by decide)
    tone := fun _ _ => rfl
    amp := by simp [Pos.rank]
    tb := by simp [Pos.rank] } ?_
  rw [Pos.tonesLeft.eq_def .firstTone, hsymbols]
  exact (Nat.add_assoc ..).symm

theorem ampQueryStep_goesForward (h : s.ReadyAt .ampQuery) (hp : s.pos = .ampQuery) : GoesForward s (ampQueryStep s) :=
  goesForward_log hp {
    packet := h.packet
    css := h.css
    filter := fun _ => h.filter (by decide)
    tone := fun _ _ => h.tone (by decide) (by decide)
    amp := fun _ => rfl
    tb := by simp [Pos.rank] } draw_schedule

theorem settleStep_goesForward (h : s.ReadyAt .settle) (hp : s.pos = .settle) : GoesForward s (settleStep s) :=
  goesForward_to hp {
    packet := h.packet
    css := h.css
    filter := fun _ => h.filter (by decide)
    tone := fun _ _ => h.tone (by decide) (by decide)
    amp := fun _ => h.amp (by decide)
    tb := fun _ => rfl } rfl

/-! ### TRANSMITTING (46_transmitter.md R707, R708) -/

theorem pollWait_goesForward (htb : s.tb.isSome = true) {k : Nat → Out} {o : Out} (ho : pollWait s k = some o)
    (hk : ∀ tb, GoesForward s (k tb)) : GoesForward s o := by
  obtain ⟨tb, htb⟩ := Option.isSome_iff_exists.1 htb
  rw [pollWait_eq htb] at ho
  split at ho
  · obtain rfl := Option.some.inj ho
    exact hk tb
  · cases ho

theorem firstSymbolStep_goesForward (h : s.ReadyAt .firstSymbol) (hp : s.pos = .firstSymbol) {o : Out}
    (ho : firstSymbolStep s = some o) : GoesForward s o :=
  pollWait_goesForward (h.tb (by decide)) ho fun _ =>
    goesForward_to hp { h.mono (q := .writeAhead) {} with tb := fun _ => rfl } rfl

/-- The write-ahead step makes the switch that was counted. -/
theorem symbolStep_goesForward (h : s.ReadyAt .writeAhead) (hp : s.pos = .writeAhead) (target : Nat) :
    GoesForward s (symbolStep target s) := by
  obtain ⟨-, hlen⟩ := h.packet
  have hready : s.ReadyAt .boundary := h.mono {}
  by_cases hnext : s.sidx + 1 < s.nsym
  · have hb : s.sym[s.sidx + 1]? = some s.sym[s.sidx + 1] := List.getElem?_eq_getElem (by omega)
    obtain ⟨c, hc⟩ := Option.isSome_iff_exists.1 (h.tone (by decide) (by decide))
    have hcount := switchesFrom_of_lt hlen hnext hb hc
    rw [symbolStep_of_next hnext hb hc]
    split
    · next hsame =>
      have hsame' : s.switchesFrom (s.sidx + 2) = s.switchesFrom (s.sidx + 1) := by
        rw [hcount, if_pos hsame.symm, Nat.zero_add, State.switchesFrom, hc, ← hsame]
        rfl
      exact goesForward_to hp { hready with } (congrArg (fun k => toneCalls s.trace + (1 + k)) hsame')
    · next hne =>
      rw [if_neg (Ne.symm hne)] at hcount
      refine goesForward_tone (u := { s.checked target with cur := some s.sym[s.sidx + 1] }) hp
        { hready with tone := fun _ _ => rfl } ?_
      rw [Pos.tonesLeft.eq_def .writeAhead, hcount]
      rfl
  · have hnone : s.switchesFrom (s.sidx + 2) = s.switchesFrom (s.sidx + 1) := by
      rw [switchesFrom_of_ge (by omega), switchesFrom_of_ge (by omega)]
    rw [symbolStep_of_last hnext]
    exact goesForward_to hp { hready with } (congrArg (fun k => toneCalls s.trace + (1 + k)) hnone)

/-- The last tone-generator call is RS1's. -/
theorem toneOffStep_goesForward (h : s.ReadyAt .boundary) (hp : s.pos = .boundary) (hlast : s.sidx + 1 = s.nsym) :
    GoesForward s (toneOffStep (advanceSymbol s)) := by
  have hnone : s.switchesFrom (s.sidx + 2) = 0 := switchesFrom_of_ge (by omega)
  exact goesForward_tone (u := { advanceSymbol s with phase := .restoring, pos := .routeMic }) hp
    { h.mono (q := .routeMic) {} with } (congrArg (1 + ·) hnone.symm)

theorem boundaryStep_goesForward (h : s.ReadyAt .boundary) (hp : s.pos = .boundary) {o : Out}
    (ho : boundaryStep s = some o) : GoesForward s o := by
  refine pollWait_goesForward (h.tb (by decide)) ho fun start => ?_
  dsimp only
  split
  · next hlast => exact toneOffStep_goesForward h hp hlast
  · exact ⟨_, rfl, {
      illegal := rfl
      uninit := rfl
      schedule := ⟨rfl, rfl⟩
      tones := by rw [hp]; rfl
      place := .inl ⟨{ h.mono (q := .writeAhead) {} with tb := fun _ => rfl }, .inr ⟨hp, rfl, rfl⟩⟩ }⟩

/-! ### RESTORING (46_transmitter.md R709, R710) -/

theorem cssRestoreStep_goesForward (h : s.ReadyAt .cssRestore) (hp : s.pos = .cssRestore) :
    GoesForward s (cssRestoreStep s) := by
  obtain ⟨c, hc⟩ := Option.isSome_iff_exists.1 h.css
  rw [cssRestoreStep, needValue_of_eq hc]
  exact goesForward_call h hp

theorem filterRestoreStep_goesForward (h : s.ReadyAt .filterRestore) (hp : s.pos = .filterRestore) :
    GoesForward s (filterRestoreStep s) := by
  obtain ⟨ok, v, hok, hv⟩ := h.filter (by decide)
  rw [filterRestoreStep_eq hok hv]
  exact goesForward_call h hp draw_schedule

theorem ampRestoreStep_goesForward (h : s.ReadyAt .ampRestore) (hp : s.pos = .ampRestore) :
    GoesForward s (ampRestoreStep s) := by
  obtain ⟨on, hon⟩ := Option.isSome_iff_exists.1 (h.amp (by decide))
  rw [ampRestoreStep, needValue_of_eq hon]
  split <;> exact goesForward_call h hp

theorem finish_goesForward (hp : s.pos = .finish) : GoesForward s (completeXmit 1 s) :=
  ⟨_, rfl, {
    illegal := rfl
    uninit := rfl
    schedule := ⟨rfl, rfl⟩
    tones := by rw [hp]; rfl
    place := .inr ⟨hp, rfl, rfl⟩ }⟩

/-- Every step of an armed transmission. -/
theorem xmitStep_goesForward (h : s.ReadyAt s.pos) (harmed : 4 ≤ s.pos.rank) {o : Out} (ho : xmitStep s = some o) :
    GoesForward s o := by
  cases hp : s.pos <;> rw [hp] at h harmed <;> simp only [xmitStep, hp, Option.some.injEq, reduceCtorEq] at ho
  case fail | txenQuery | cssGet => exact absurd harmed (by simp [Pos.rank])
  case cssOff | routeTone | ampEnable | mute | routeMic | unmute => exact ho ▸ goesForward_call h hp
  case filterRead => exact ho ▸ feReadStep_goesForward h hp
  case filterOff ok v => exact ho ▸ filterOffStep_goesForward h hp
  case firstTone => exact ho ▸ firstToneStep_goesForward h hp
  case ampQuery => exact ho ▸ ampQueryStep_goesForward h hp
  case settle => exact ho ▸ settleStep_goesForward h hp
  case firstSymbol => exact firstSymbolStep_goesForward h hp ho
  case writeAhead => exact pollWait_goesForward (h.tb (by decide)) ho (symbolStep_goesForward h hp)
  case boundary => exact boundaryStep_goesForward h hp ho
  case cssRestore => exact ho ▸ cssRestoreStep_goesForward h hp
  case filterRestore => exact ho ▸ filterRestoreStep_goesForward h hp
  case ampRestore => exact ho ▸ ampRestoreStep_goesForward h hp
  case finish => exact ho ▸ finish_goesForward hp

theorem seqStep_goesForward (h : s.ReadyAt s.pos) (harmed : 4 ≤ s.pos.rank) {o : Out} (ho : seqStep s = some o) :
    GoesForward s o := by
  have hbusy : s.pos ≠ .idle := fun hidle => by simp [hidle, Pos.rank] at harmed
  rw [seqStep, if_neg hbusy] at ho
  exact xmitStep_goesForward h harmed ho

end

/-- Settles O52: under the invariant an armed transmission has every register its next step reads. -/
theorem armedTransmissionGoesForward : Obligations.ArmedTransmissionGoesForward := by
  intro s o h harmed ho
  obtain ⟨t, rfl, hforward⟩ := seqStep_goesForward (h.readyAt harmed) harmed ho
  refine ⟨t, rfl, hforward.illegal, hforward.uninit, ?_⟩
  rcases hforward.place with ⟨-, hrank | hnext⟩ | hfinish
  · exact .inl hrank
  · exact .inr (.inl hnext)
  · exact .inr (.inr hfinish)

/-! ## Eager transmissions (46_transmitter.md R710, R713, R714) -/

/-- Settles O58: XMIT's first step and the run to completion from it. -/
theorem xmitCompletesOnSchedule : Obligations.XmitCompletesOnSchedule := by
  intro len s ms es he hmode htxen hpos hle hwritten
  obtain ⟨t, u, ht, htu, hu⟩ := startXmit_transmits he (.of_scripted hmode htxen) hpos hle hwritten
  obtain ⟨n, hn⟩ := htu.exists_run
  obtain ⟨hcfg, hpkt, hcrc, hcsr, hdprev, hfault, hhost, -⟩ := hu.undisturbed
  exact ⟨t, n, u, ht, hn, hu.phase, hu.pos, hu.res, hfault, hpkt, hcrc, hcsr, hdprev, hcfg, hhost, hu.nsym, hu.sidx,
    hu.tick⟩

section

variable {s t u : State}

/-- One step on the way. -/
theorem Reaches.tail_of_step (h : Reaches s u) (hstep : step s = .next t) (hne : s ≠ u) : Reaches t u := by
  rcases Relation.ReflTransGen.cases_head h with heq | ⟨t', hstep', hrest⟩
  · exact absurd heq hne
  · obtain rfl := Host.Outcome.next.inj (hstep.symm.trans hstep')
    exact hrest

/-- The packet check that passes arms the transmission, with the packet's bits first in SYM. -/
theorem packetStep_arms {len : Byte} (hpos : 1 ≤ len.toNat) (hle : len.toNat ≤ 26)
    (hwritten : written s.pkt 0 len.toNat) (he : s.eager) :
    ∃ t, packetStep len s = .next t ∧ t.eager ∧ t.pos = .cssOff ∧ t.ReadyAt .cssOff ∧
      toneCalls t.trace = toneCalls s.trace ∧
      t.sym.take t.nsym = (List.range (8 * len.toNat)).map fun k => (pktByte s.pkt (k / 8)).getLsbD (7 - k % 8) := by
  obtain ⟨bs, hbs⟩ := readBytes_of_written hwritten
  have hlen : (bitstream bs).length = 8 * len.toNat := by rw [bitstream_length, (readBytes_eq_some.1 hbs).1]
  have hbits : (writeSym (bitstream bs) s.sym).take (8 * len.toNat) = bitstream bs := by
    rw [writeSym, ← hlen, List.take_left]
  have hfits : 8 * len.toNat ≤ (writeSym (bitstream bs) s.sym).length := by
    rw [writeSym_length, hlen]
    exact Nat.le_max_left ..
  obtain ⟨hmoves, hfallback⟩ :
      (drawCss s.env).2.moves = s.env.moves ∧ (drawCss s.env).2.fallback = s.env.fallback := draw_schedule
  refine ⟨_, packetStep_of_read hpos hle hbs, ⟨hmoves.trans he.1, hfallback.trans he.2⟩, rfl, {
    packet := ⟨?_, hfits⟩
    css := rfl
    filter := by simp [Pos.rank]
    tone := by simp [Pos.rank]
    amp := by simp [Pos.rank]
    tb := by simp [Pos.rank] }, rfl, hbits.trans (bitstream_eq_map hbs)⟩
  show 1 ≤ 8 * len.toNat
  omega

/-- An armed transmission that comes to an end under the eager schedule first comes to its completion, with as many
tone-generator calls as were left. -/
theorem State.ReadyAt.completes (h : s.ReadyAt s.pos) (harmed : 4 ≤ s.pos.rank) (he : s.eager) (hreach : Reaches s u)
    (hidle : u.pos = .idle) :
    ∃ v, Reaches s v ∧ v.pos = .idle ∧ v.res = some 1 ∧
      toneCalls v.trace = toneCalls s.trace + s.pos.tonesLeft s := by
  induction hreach using Relation.ReflTransGen.head_induction_on with
  | refl => exact absurd harmed (by rw [hidle]; decide)
  | @head s t hstep _ ih =>
    have hnext := step_eager he.1 he.2
    cases ho : seqStep s with
    | none =>
      obtain rfl : tickStep s = t := by
        rw [hnext, ho] at hstep
        exact Host.Outcome.next.inj hstep
      obtain ⟨v, hv, hdone⟩ := ih { h with } harmed he
      exact ⟨v, .head hstep hv, hdone⟩
    | some o =>
      obtain ⟨t', rfl, hforward⟩ := seqStep_goesForward h harmed ho
      obtain rfl : t' = t := by
        rw [hnext, ho] at hstep
        exact Host.Outcome.next.inj hstep
      have heager : t'.eager := ⟨hforward.schedule.1.trans he.1, hforward.schedule.2.trans he.2⟩
      rw [← hforward.tones]
      rcases hforward.place with ⟨hready, hon⟩ | ⟨-, hpos, hres⟩
      · have harmed' : 4 ≤ t'.pos.rank := by
          rcases hon with hrank | ⟨-, hpos, -⟩
          · omega
          · rw [hpos]; decide
        obtain ⟨v, hv, hdone⟩ := ih hready harmed' heager
        exact ⟨v, .head hstep hv, hdone⟩
      · exact ⟨t', .single hstep, hpos, hres, by rw [hpos]; rfl⟩

end

/-- Settles O59: from the first arming call on, the calls left are A3's, RS1's and one for each change in the bits that
SYM holds. -/
theorem xmitToneCallsAreTwoPlusChanges : Obligations.XmitToneCallsAreTwoPlusChanges := by
  intro len s ms es he hmode htxen hpos hle hwritten
  obtain ⟨a, ha, hposa, hstepa⟩ := exec_xmit_queried len he hmode htxen
  obtain ⟨c, hc, hec, hposc, hready, htrace, hbits⟩ :=
    packetStep_arms (s := s.queried len true ms es) hpos hle hwritten he
  have hstepb : step (s.queried len true ms es) = .next c :=
    step_eager_at_place (s := s.queried len true ms es) (p := .cssGet len) he rfl (congrArg some hc)
  obtain ⟨t, u, ht, htu, hu⟩ := startXmit_transmits he (.of_scripted hmode htxen) hpos hle hwritten
  obtain rfl : a = t := Host.Outcome.next.inj (ha.symm.trans ht)
  have hbusy : ∀ {x : State}, x.pos ≠ .idle → x ≠ u := fun hx hxu => hx (hxu ▸ hu.pos)
  have hcu : Reaches c u := (htu.tail_of_step hstepa (hbusy (by simp [hposa]))).tail_of_step hstepb
    (hbusy (by simp [State.queried]))
  obtain ⟨v, hcv, hv, hres, htones⟩ := (hposc ▸ hready).completes (by rw [hposc]; decide) hec hcu hu.pos
  obtain ⟨n, hn⟩ := Reaches.exists_run (.head hstepa (.head hstepb hcv))
  refine ⟨a, n, v, ha, hn, hv, hres, ?_⟩
  rw [htones, hposc, Pos.tonesLeft.eq_def .cssOff, hbits, htrace]
  exact (Nat.add_assoc ..).symm

end Sys2Proof.Machine
end

section
/-! SUPPORT. What every step does about faults (60_exceptions.md R811 to R814, R822; 70_reset_and_hazards.md R900,
R915): it has a next state, it clears no fault bit unless it is the reset, and a wait that has stalled is remembered
until the write-ahead step that sets LATE. -/

namespace Sys2Proof.Machine

open Sys2Proof.Laws

/-! ## Every step has a next state (60_exceptions.md R811, R822) -/

/-- What the sequencer or the port does always ends in a next state. -/
theorem seqStep_eq_next {s : State} {o : Out} (ho : seqStep s = some o) : ∃ t, o = .next t := by
  rcases seqStep_cases ho with ⟨t, ht, -⟩ | ⟨-, -, u, -, t, ht, -⟩ <;> exact ⟨t, ht⟩

/-- Settles O9: the tick, the reset and a poll without effect are next states outright, and so is the sequencer's
step, whatever it raises. -/
theorem stepAlwaysGoesOn : Obligations.StepAlwaysGoesOn := by
  intro s
  obtain ⟨e, -, hs | hs | ⟨o, ho, hs⟩ | ⟨-, hs⟩⟩ := step_cases s
  · exact ⟨_, hs⟩
  · exact ⟨_, hs⟩
  · obtain ⟨t, rfl⟩ := seqStep_eq_next ho
    exact ⟨t, hs⟩
  · exact ⟨_, hs⟩

/-! ## Steps that are the reset, and steps that are not (70_reset_and_hazards.md R900) -/

/-- When reset is next, by the script or by a free choice, the step is the reset. -/
theorem step_of_resetNext {s : State} (h : s.resetNext) :
    ∃ e : Env, step s = .next (resetBlock { s with env := e }) := by
  rcases h with hhead | ⟨hmoves, hfallback, hfree⟩
  · obtain ⟨rest, hmoves⟩ := List.head?_eq_some_iff.1 hhead
    exact ⟨_, step_scripted hmoves⟩
  · refine ⟨{ s.env with draws := s.env.draws + 1 }, ?_⟩
    simp only [step, scheduledStep, hmoves, hfallback, hfree, moveStep]

/-- When reset is not next, a step is a tick, a step of the sequencer or the port, or a poll without effect. -/
theorem step_next_cases_of_not_resetNext {s t : State} (h : ¬ s.resetNext) (ht : step s = .next t) :
    ∃ e : Env, t = tickStep { s with env := e } ∨ seqStep { s with env := e } = some (.next t) ∨
      t = { s with env := e } := by
  obtain ⟨e, m, hstep, hm⟩ := step_eq_moveStep s
  rw [hstep] at ht
  refine ⟨e, ?_⟩
  cases m with
  | tick => exact .inl (Host.Outcome.next.inj ht).symm
  | reset => exact absurd (hm rfl) h
  | sequencer =>
    rw [moveStep] at ht
    cases ho : seqStep { s with env := e } with
    | some o =>
      rw [ho] at ht
      exact .inr (.inl (congrArg some ht))
    | none =>
      rw [ho] at ht
      exact .inr (.inr (Host.Outcome.next.inj ht).symm)

/-! ## Fault bits (60_exceptions.md R814) -/

/-- Every bit of f is set in g too. -/
def FaultBits.KeptIn (f g : FaultBits) : Prop := ∀ k, faultBit k f = true → faultBit k g = true

theorem FaultBits.KeptIn.refl (f : FaultBits) : f.KeptIn f := fun _ => id

/-- Setting the bit of one kind leaves those of the others. -/
theorem faultBit_setFaultBit (j k : FaultKind) (f : FaultBits) :
    faultBit j (setFaultBit k f) = (faultBit j f || decide (j = k)) := by
  cases k <;> cases j <;> simp [faultBit, setFaultBit]

theorem FaultBits.keptIn_setFaultBit (k : FaultKind) (f : FaultBits) : f.KeptIn (setFaultBit k f) := by
  intro j hj
  rw [faultBit_setFaultBit, hj, Bool.true_or]

/-- The lateness check raises LATE or leaves FAULT alone. -/
theorem markLate_keptIn (target : Nat) (s : State) : s.fault.KeptIn (markLate target s).fault := by
  unfold markLate
  split
  · exact FaultBits.keptIn_setFaultBit _ _
  · exact .refl _

/-- If an outcome is a next state, the bits of f are set there. -/
def KeepsFaults (f : FaultBits) (o : Out) : Prop := ∀ t, o = .next t → f.KeptIn t.fault

theorem keepsFaults_of_keptIn {f : FaultBits} {t : State} (h : f.KeptIn t.fault) : KeepsFaults f (.next t) := by
  rintro _ ⟨⟩
  exact h

section

variable {s t : State} {f : FaultBits}

theorem keepsFaults_next (h : t.fault = f := by rfl) : KeepsFaults f (.next t) :=
  keepsFaults_of_keptIn (h ▸ .refl _)

theorem failWith_keepsFaults (k : FaultKind) (h : t.fault = f := by rfl) : KeepsFaults f (failWith k t) :=
  keepsFaults_of_keptIn (h ▸ FaultBits.keptIn_setFaultBit k _)

/-- A transmitter step that finds no value raises UNINIT, which clears no bit either. -/
theorem needValue_keepsFaults {α : Type} {o : Option α} {k : α → Out} (hk : ∀ a, KeepsFaults f (k a))
    (h : t.fault = f := by rfl) : KeepsFaults f (needValue o t k) := by
  rcases needValue_cases o t k with ⟨a, -, heq⟩ | ⟨-, heq⟩ <;> rw [heq]
  · exact hk a
  · exact failWith_keepsFaults _ h

theorem pollWait_keepsFaults {k : Nat → Out} {o : Out} (ho : pollWait s k = some o)
    (hk : ∀ tb, KeepsFaults s.fault (k tb)) : KeepsFaults s.fault o := by
  unfold pollWait at ho
  split at ho
  · obtain rfl := Option.some.inj ho
    exact failWith_keepsFaults _
  · split at ho
    · obtain rfl := Option.some.inj ho
      exact hk _
    · cases ho

/-! ### Steps of a transmission -/

theorem packetStep_keepsFaults (len : Byte) : KeepsFaults s.fault (packetStep len s) := by
  simp only [packetStep]
  split
  · exact keepsFaults_next
  · split
    · exact keepsFaults_next
    · split
      · exact failWith_keepsFaults _
      · exact keepsFaults_next

theorem symbolStep_keepsFaults (target : Nat) : KeepsFaults s.fault (symbolStep target s) := by
  simp only [symbolStep]
  split
  · refine needValue_keepsFaults fun b => needValue_keepsFaults fun c => ?_
    split <;> exact keepsFaults_of_keptIn (markLate_keptIn target s)
  · exact keepsFaults_of_keptIn (markLate_keptIn target s)

/-- Inside XMIT or POSTID, place by place. -/
theorem xmitStep_keepsFaults {o : Out} (ho : xmitStep s = some o) : KeepsFaults s.fault o := by
  cases hp : s.pos <;> simp only [xmitStep, hp, Option.some.injEq, reduceCtorEq] at ho
  case fail | txenQuery | cssOff | filterRead | filterOff | routeTone | ampQuery | ampEnable | mute | settle |
      routeMic | unmute | finish => exact ho ▸ keepsFaults_next
  case cssGet len => exact ho ▸ packetStep_keepsFaults len
  case firstTone | cssRestore => exact ho ▸ needValue_keepsFaults fun _ => keepsFaults_next
  case firstSymbol => exact pollWait_keepsFaults ho fun _ => keepsFaults_next
  case writeAhead => exact pollWait_keepsFaults ho symbolStep_keepsFaults
  case boundary =>
    refine pollWait_keepsFaults ho fun start => ?_
    dsimp only
    split <;> exact keepsFaults_next
  case filterRestore =>
    refine ho ▸ needValue_keepsFaults fun ok => ?_
    split
    · exact needValue_keepsFaults fun _ => keepsFaults_next
    · exact keepsFaults_next
  case ampRestore =>
    refine ho ▸ needValue_keepsFaults fun on => ?_
    split <;> exact keepsFaults_next

/-! ### Commands -/

/-- The encoder's stages leave FAULT alone. -/
theorem fault_of_encoder_frame
    (ht : t = { s with pkt := t.pkt, crc := t.crc, csr := t.csr, dprev := t.dprev }) : t.fault = s.fault := by
  rw [ht]

theorem completeStage_keepsFaults {r : Option State}
    (hr : ∀ t, r = some t → t = { s with pkt := t.pkt, crc := t.crc, csr := t.csr, dprev := t.dprev }) :
    KeepsFaults s.fault (completeStage r s) := by
  rcases completeStage_cases r s with ⟨t, ht, heq⟩ | ⟨-, heq⟩ <;> rw [heq]
  · have hfault := fault_of_encoder_frame (hr t ht)
    exact keepsFaults_next hfault
  · exact failWith_keepsFaults _

/-- Every command's first step, in any state. -/
theorem exec_keepsFaults (i : Instr) (s : State) : KeepsFaults s.fault (exec i s) := by
  cases i with
  | crcinit | crcbyte | crcread | leader | frame | xmit => exact keepsFaults_next
  | fecenc => exact completeStage_keepsFaults fun _ => fecStage_frame
  | ilv => exact completeStage_keepsFaults fun _ => ilvStage_frame
  | diff => exact completeStage_keepsFaults fun _ => diffStage_frame
  | encode op arg unit null =>
    simp only [exec, execEncode]
    split
    · exact keepsFaults_next
    · split
      · next t ht =>
        have hfault := fault_of_encoder_frame (encodeStages_frame ht)
        exact keepsFaults_next hfault
      · exact failWith_keepsFaults _
  | pktwr i v =>
    simp only [exec, execPktwr]
    split
    · exact keepsFaults_next
    · exact failWith_keepsFaults _
  | pktrd i =>
    simp only [exec, execPktrd]
    split
    · exact keepsFaults_next
    · exact failWith_keepsFaults _
  | postid unit =>
    simp only [exec, execPostid]
    split
    · next t ht =>
      have hfault := fault_of_encoder_frame (encodeStages_frame ht)
      exact keepsFaults_next hfault
    · exact failWith_keepsFaults _

theorem hostStep_keepsFaults (a : HostAct) (s : State) : KeepsFaults s.fault (hostStep a s) := by
  cases a with
  | issue w =>
    simp only [hostStep, acceptWord]
    split
    · exact exec_keepsFaults _ (logAct (.accepted w) s)
    · exact failWith_keepsFaults _
  | readRes =>
    simp only [hostStep, hostReadRes]
    split
    · exact keepsFaults_next
    · exact failWith_keepsFaults _

theorem portStep_keepsFaults {o : Out} (ho : portStep s = some o) : KeepsFaults s.fault o := by
  unfold portStep at ho
  split at ho
  · cases ho
  · next a rest _ =>
    obtain rfl := Option.some.inj ho
    exact hostStep_keepsFaults a { s with env := { s.env with host := rest } }

theorem seqStep_keepsFaults {o : Out} (ho : seqStep s = some o) : KeepsFaults s.fault o := by
  unfold seqStep at ho
  split at ho
  · split at ho
    · exact portStep_keepsFaults ho
    · cases ho
  · exact xmitStep_keepsFaults ho

/-- A step that is not the reset clears no bit. -/
theorem step_keepsFaults (h : ¬ s.resetNext) (ht : step s = .next t) : s.fault.KeptIn t.fault := by
  obtain ⟨e, rfl | ho | rfl⟩ := step_next_cases_of_not_resetNext h ht
  · exact .refl _
  · exact seqStep_keepsFaults ho t rfl
  · exact .refl _

end

/-- Settles O53: a fault sets a bit and no other write to FAULT clears one, but the reset clears all three. -/
theorem faultBitsAreSticky : Obligations.FaultBitsAreSticky := by
  intro s t ht
  refine ⟨fun hreset => ?_, fun hreset => ?_⟩
  · have hkept := step_keepsFaults hreset ht
    exact ⟨hkept .illegal, hkept .uninit, hkept .late⟩
  · obtain ⟨e, hstep⟩ := step_of_resetNext hreset
    obtain rfl := Host.Outcome.next.inj (hstep.symm.trans ht)
    exact ⟨rfl, rfl, rfl⟩

/-! ## Stalled waits (70_reset_and_hazards.md R915, 46_transmitter.md R717) -/

section

variable {s t : State} {tb : Nat}

/-- The tick at which a wait's target stops reading as reached is remembered. -/
theorem tickStep_stalled_of_lapse (hw : s.pos.waits = true) (htb : s.tb = some tb)
    (hreached : reached s.cfg s.tick (waitPoint s.cfg s.pos tb) = true)
    (hlapsed : reached s.cfg (tickAdd s.cfg s.tick 1) (waitPoint s.cfg s.pos tb) = false) :
    (tickStep s).stalled = true := by
  rw [tickStep_stalled, waitLapses_of_waits hw htb, hreached, hlapsed]
  exact Bool.or_true _

/-- A sequencer that has a step in a wait has found the target reached, and its step is what follows the wait. -/
theorem eq_of_pollWait_eq_some (htb : s.tb = some tb) {k : Nat → Out} {o : Out} (ho : pollWait s k = some o) :
    o = k tb := by
  rw [pollWait_eq htb] at ho
  split at ho
  · exact (Option.some.inj ho).symm
  · cases ho

/-- What one step other than the reset does, in a wait, with the memory of a stall: it keeps the wait and the
memory, takes the memory to the write-ahead wait, sets LATE at the write-ahead step, or ends the last symbol. -/
def CarriesStall (s t : State) : Prop :=
  (t.stalled = true ∧ t.pos = s.pos ∧ t.tb = s.tb) ∨
    (s.pos ≠ .writeAhead ∧ t.pos = .writeAhead ∧ t.stalled = true) ∨
    (s.pos = .writeAhead ∧ t.pos = .boundary ∧ t.fault.late = true) ∨
    (s.pos = .boundary ∧ s.sidx + 1 = s.nsym ∧ t.pos = .routeMic)

theorem firstSymbol_carriesStall (hp : s.pos = .firstSymbol) (htb : s.tb = some tb) (hstalled : s.stalled = true)
    (ho : seqStep s = some (.next t)) : CarriesStall s t := by
  have hstep : firstSymbolStep s = some (.next t) := by simpa [seqStep, xmitStep, hp] using ho
  obtain rfl := Host.Outcome.next.inj (eq_of_pollWait_eq_some htb hstep)
  exact .inr (.inl ⟨by simp [hp], rfl, hstalled⟩)

theorem writeAhead_carriesStall (h : s.Inv) (hp : s.pos = .writeAhead) (htb : s.tb = some tb)
    (hstalled : s.stalled = true) (ho : seqStep s = some (.next t)) : CarriesStall s t := by
  have hstep : writeAheadStep s = some (.next t) := by simpa [seqStep, xmitStep, hp] using ho
  obtain ⟨u, hu, hframe, -⟩ := symbolStep_effect h hp tb
  obtain rfl := Host.Outcome.next.inj ((eq_of_pollWait_eq_some htb hstep).trans hu)
  refine .inr (.inr (.inl ⟨hp, congrArg State.pos hframe, ?_⟩))
  calc t.fault.late = (s.fault.late || s.stalled || reached s.cfg s.tick tb) :=
        congrArg (fun u => u.fault.late) hframe
    _ = true := by simp [hstalled]

theorem boundary_carriesStall (hp : s.pos = .boundary) (htb : s.tb = some tb) (hstalled : s.stalled = true)
    (ho : seqStep s = some (.next t)) : CarriesStall s t := by
  have hstep : boundaryStep s = some (.next t) := by simpa [seqStep, xmitStep, hp] using ho
  have hnext := eq_of_pollWait_eq_some htb hstep
  dsimp only at hnext
  split at hnext <;> obtain rfl := Host.Outcome.next.inj hnext
  · next hlast => exact .inr (.inr (.inr ⟨hp, hlast, rfl⟩))
  · exact .inr (.inl ⟨by simp [hp], rfl, hstalled⟩)

/-- In a stalled wait every step but the reset carries the stall on. -/
theorem step_carriesStall (h : s.Inv) (hw : s.pos = .firstSymbol ∨ s.pos = .writeAhead ∨ s.pos = .boundary)
    (htb : s.tb = some tb) (hstalled : s.stalled = true) (hreset : ¬ s.resetNext) (ht : step s = .next t) :
    CarriesStall s t := by
  obtain ⟨e, rfl | ho | rfl⟩ := step_next_cases_of_not_resetNext hreset ht
  · exact .inl ⟨tickStep_stalled_of_stalled (s := { s with env := e }) hstalled, rfl, rfl⟩
  · rcases hw with hp | hp | hp
    · exact firstSymbol_carriesStall (s := { s with env := e }) hp htb hstalled ho
    · exact writeAhead_carriesStall (s := { s with env := e }) (h.withEnv e) hp htb hstalled ho
    · exact boundary_carriesStall (s := { s with env := e }) hp htb hstalled ho
  · exact .inl ⟨hstalled, rfl, rfl⟩

end

/-- Settles O42: the tick at which the wait's target lapses sets the record of a stall, and each later step carries
it on. -/
theorem stallSetsLateAtNextCheck : Obligations.StallSetsLateAtNextCheck := by
  intro s t tb target h htb ht hwait
  have hpos : s.pos = .firstSymbol ∨ s.pos = .writeAhead ∨ s.pos = .boundary := by
    rcases hwait with ⟨hp | hp, -⟩ | ⟨hp, -⟩ <;> simp [hp]
  have hw : s.pos.waits = true := by rcases hpos with hp | hp | hp <;> rw [hp] <;> rfl
  have htarget : target = waitPoint s.cfg s.pos tb := by
    rcases hwait with ⟨hp | hp, htarget⟩ | ⟨hp, htarget⟩ <;> rw [hp, htarget] <;> rfl
  subst htarget
  refine ⟨fun rest hmoves hreached hlapsed => ?_,
    fun hstalled hreset => step_carriesStall h hpos htb hstalled hreset ht⟩
  obtain rfl := Host.Outcome.next.inj ((step_scripted hmoves).symm.trans ht)
  exact tickStep_stalled_of_lapse (s := { s with env := { s.env with moves := rest } }) hw htb hreached hlapsed

end Sys2Proof.Machine
end
